-- ==== Sys2Proof/Word.lean ====
section
/-! DEFINITION. The word types of SWBUS: the 32-bit request and response words and the 8-bit byte
(spec/30_encoding.md R91, R96; spec/00_scope.md R5, last paragraph of section 4). -/

namespace Sys2Proof

/-- A request word or a response word (R91, R96). -/
abbrev Word := BitVec 32

/-- A byte of the bus frame (R100). -/
abbrev Byte := BitVec 8

/-- One half of a word, the width of the operand field `IMM` and of `eng.half` (R91, R29). -/
abbrev Half := BitVec 16

end Sys2Proof
end

