-- ==== Sys2Proof/Config.lean ====
section
/-! DEFINITION. The configuration record `Cfg` (spec/00_scope.md R5), the reference configuration REF,
and the two free values of the model (an `unspecified` line level, R67; the environment, R36). -/

namespace Sys2Proof

/-- The two states of an acquired open-drain pin (spec/10_state.md R27). -/
inductive Od where
  | released
  | drivenLow
  deriving DecidableEq, Repr

/-- Bit order inside a byte (R102). The one legal value is `msbFirst` (D17). -/
inductive BitOrder where
  | msbFirst
  | lsbFirst
  deriving DecidableEq, Repr

/-- Where one pad's enables stand: `PAD_WORD(i)`, `PUE_BIT(i)`, `PDE_BIT(i)` (R5, R22). -/
structure PadPos where
  word : Nat
  pueBit : Nat
  pdeBit : Nat
  deriving DecidableEq, Repr

/-- The configuration record (R5), one field for each row of R5's table.
`N_PADS` and `N_WORDS` are the lengths of `pads` and `padReset`, so that the tables are total by construction. -/
structure Cfg where
  /-- `PAD_W`. -/
  padW : Nat
  /-- `PAD_WORD(i)`, `PUE_BIT(i)`, `PDE_BIT(i)` for each pad `i` in order. -/
  pads : List PadPos
  /-- `PAD_RESET(w)` for each word `w` in order. -/
  padReset : List Nat
  /-- `BUS_GRP`. -/
  busGrp : Nat
  /-- `BUS_PIN`. -/
  busPin : Nat
  /-- `T_START`. -/
  tStart : BitVec 32
  /-- `T_HALF`. -/
  tHalf : BitVec 32
  /-- `T_ACK_DELAY`. -/
  tAckDelay : BitVec 32
  /-- `T_TIMEOUT`. -/
  tTimeout : BitVec 32
  /-- `T_STANDBY`. -/
  tStandby : BitVec 32
  /-- `BIT_ORDER`. -/
  bitOrder : BitOrder
  /-- `CELL_CODE(0)`: first half, second half. -/
  cell0 : Od × Od
  /-- `CELL_CODE(1)`: first half, second half. -/
  cell1 : Od × Od
  /-- `ACK_LEVEL`. -/
  ackLevel : Bool
  /-- `CRC_POLY`. -/
  crcPoly : Byte
  /-- `CRC_INIT`. -/
  crcInit : Byte
  /-- `CRC_XOROUT`. -/
  crcXorout : Byte
  /-- `MAX_DATA`. -/
  maxData : Nat
  deriving DecidableEq, Repr

/-- `N_PADS`: the number of pads, and of pins, of the supported group (R5). -/
def Cfg.nPads (c : Cfg) : Nat := c.pads.length

/-- `N_WORDS`: the number of pad control words (R5). -/
def Cfg.nWords (c : Cfg) : Nat := c.padReset.length

namespace Config

/-- REF, the reference configuration of R5's table, used by the vectors of spec/95_test_vectors.md.
DESIGN CHOICE (log 1): its values are the spec's placeholders and carry no authority. -/
def ref : Cfg where
  padW := 32
  pads := (List.range 30).map fun i => { word := i, pueBit := 3, pdeBit := 2 }
  padReset := List.replicate 30 0x00000052
  busGrp := 0
  busPin := 2
  tStart := 16#32
  tHalf := 4#32
  tAckDelay := 2#32
  tTimeout := 8#32
  tStandby := 32#32
  bitOrder := .msbFirst
  cell0 := (.drivenLow, .drivenLow)
  cell1 := (.released, .released)
  ackLevel := false
  crcPoly := 0x07#8
  crcInit := 0x00#8
  crcXorout := 0x00#8
  maxData := 16

/-- FREE VALUE (log 7): the level drawn at the `k`-th use of an `unspecified` line (R67: "a free draw in
`{0,1}` at each use"). Nothing is known of it. -/
opaque freeLevel : Nat → Bool

/-- FREE VALUE (log 5): whether another participant holds pin `p` low in cycle `c`, for a cycle past the end
of the environment's schedule (R36: the environment chooses `ext[p]` in each cycle). Nothing is known of it. -/
opaque freeExt : (c p : Nat) → Bool

end Config

end Sys2Proof
end

