-- ==== Sys2Proof/Syntax.lean ====
section
/-! DEFINITION. The thirteen operations of SWBUS as abstract terms (spec/30_encoding.md R92, R107, R108),
one constructor for each row of spec/opcode_table.json, with the operands in the order of R108. -/

namespace Sys2Proof

/-- The operations a host can request (R92). Groups, indices, handles, counts and half-periods are the
numbers the rules compare and count with; bytes are bits. `WellFormed` bounds the numbers by their fields. -/
inductive Instr where
  /-- `get_pull_up g, i` (R131). -/
  | getPullUp (g i : Nat)
  /-- `set_pull_up g, i, enabled` (R132). -/
  | setPullUp (g i : Nat) (enabled : Bool)
  /-- `get_pull_down g, i` (R133). -/
  | getPullDown (g i : Nat)
  /-- `set_pull_down g, i, enabled` (R134). -/
  | setPullDown (g i : Nat) (enabled : Bool)
  /-- `acquire g, p` (R150). -/
  | acquire (g p : Nat)
  /-- `release p` (R151). -/
  | release (p : Nat)
  /-- `drive_low p` (R152). -/
  | driveLow (p : Nat)
  /-- `read p` (R153). -/
  | read (p : Nat)
  /-- `configure p, half_period_cycles` (R171). -/
  | configure (p half : Nat)
  /-- `start h` (R172). -/
  | start (h : Nat)
  /-- `stop h` (R173). -/
  | stop (h : Nat)
  /-- `transact sel, cmd, n` (R202). -/
  | transact (sel cmd : Byte) (n : Nat)
  /-- `wrbuf k, byte` (R201). -/
  | wrbuf (k : Nat) (byte : Byte)
  deriving DecidableEq, Repr

end Sys2Proof
end

