-- ==== Sys2Proof/Machine/State.lean ====
section
/-! DEFINITION. The state of SWBUS (spec/10_state.md R20 to R36, R45), plain data: every register of R20's
table, and the inputs, outputs and parameters that the fixed form of `step` leaves no other home
(INVENTORY.md, State). -/

namespace Sys2Proof.Machine

/-- Which driver owns a pin (R28). `nobody` is the spec's `None`. -/
inductive Owner where
  | nobody
  | emulator
  | engine
  deriving DecidableEq, Repr

/-- The registers of one pin (R24 to R28). -/
structure Pin where
  /-- `oe[p]`: the output driver is enabled (R24). -/
  oe : Bool
  /-- `out[p]`: the level driven when `oe = 1` and `ovr = 0` (R25). -/
  out : Bool
  /-- `ovr[p]`: the output-enable inversion override is applied (R26). -/
  ovr : Bool
  /-- `od[p]`; `none` is a pin that is not acquired (R27). -/
  od : Option Od
  /-- `owner[p]` (R28). -/
  owner : Owner
  deriving DecidableEq, Repr

/-- A pin after reset: undriven, not overridden, not acquired, unowned (R45). -/
def Pin.atReset : Pin := { oe := false, out := false, ovr := false, od := none, owner := .nobody }

/-- The registers of the Bit Timing Engine (R29). -/
structure Engine where
  cfgd : Bool
  pin : BitVec 8
  half : Half
  run : Bool
  cnt : BitVec 16
  lvl : Bool
  deriving DecidableEq, Repr

/-- The engine after reset: unconfigured and stopped, every register 0 (R45). -/
def Engine.atReset : Engine := { cfgd := false, pin := 0#8, half := 0#16, run := false, cnt := 0#16, lvl := false }

/-- The status of a response (R97). `drv.err` holds one of them in three bits (R32). -/
inductive Status where
  | ok
  | unsupportedPad
  | pinConfigurationFailed
  | pinAlreadyOwned
  | noAcknowledge
  | busTimeout
  | crcMismatch
  | refused
  deriving DecidableEq, Repr

/-- The Bus Driver's FSM state (R31). -/
inductive DrvState where
  | idle
  | startCondition
  | addressPhase
  | commandPhase
  | dataPhase
  | crcPhase
  | standbyPulse
  | error
  deriving DecidableEq, Repr

/-- Where inside its phase the driver is: `drv.step` (R34). -/
inductive DrvStep where
  | startLow
  | startRise
  | bitFirst
  | bitSecond
  | ackDelay
  | ackWait
  | ackRise
  | standby
  deriving DecidableEq, Repr

/-- The registers of the Single-Wire Bus Driver (R31 to R34). -/
structure Driver where
  state : DrvState
  err : Status
  busy : Bool
  sel : Byte
  cmd : Byte
  n : BitVec 8
  byte : BitVec 9
  bit : BitVec 4
  step : DrvStep
  cnt : BitVec 32
  crc : Byte
  deriving DecidableEq, Repr

/-- The driver after reset: `Idle`, no error, not busy (R45). DESIGN CHOICE (log 4): the position registers,
which R45 leaves unspecified and no rule reads before `transact` writes them, are 0 and `StartLow`. -/
def Driver.atReset : Driver :=
  { state := .idle, err := .ok, busy := false, sel := 0#8, cmd := 0#8, n := 0#8, byte := 0#9, bit := 0#4,
    step := .startLow, cnt := 0#32, crc := 0#8 }

/-- The inputs of one cycle: the pins whose line another participant holds low (`ext`, R36) and the level of
the input `rst` (R300). -/
structure CycleIn where
  low : List Nat
  rst : Bool
  deriving DecidableEq, Repr

/-- What the host does next (R41, R90): present a request word, or let one clock cycle pass. -/
inductive HostAct where
  | request (w : Word)
  | pass
  deriving DecidableEq, Repr

/-- The state of the machine: the registers of R20's table, then the parameter record, the inputs to come,
the response port and the model's own draw counter. -/
structure State where
  /-- `Cfg`, the parameter record (R5). No step writes it (log 1). -/
  cfg : Cfg
  /-- `PADREG[a]`, `a < N_WORDS`, each below `2 ^ PAD_W` (R21, log 10). -/
  padreg : List Nat
  /-- `oe`, `out`, `ovr`, `od`, `owner` of pin `p`, `p < N_PADS` (R24 to R28). -/
  pins : List Pin
  /-- `eng.*` (R29). -/
  eng : Engine
  /-- `TXBUF`: the written entries by rising index; an unlisted index reads as `none` (R30). -/
  txbuf : List Host.Cell
  /-- `drv.*` (R31 to R34). -/
  drv : Driver
  /-- `cyc`, the index of the current cycle (R35). -/
  cyc : Nat
  /-- The inputs of the current cycle and of those after it (R36, R300, log 5). -/
  env : List CycleIn
  /-- The host's actions to come (R41, log 6). -/
  host : List HostAct
  /-- How many free levels have been drawn (the model's own, log 7). -/
  draws : Nat
  /-- The response word the last step presented, `none` while `rsp_valid = 0` (R90, log 8). -/
  rsp : Option Word
  deriving DecidableEq, Repr

/-- Why the machine stops. -/
inductive Fault where
  /-- Raised by `step` alone, when `State.cfg` breaks a constraint of R5: "a configuration that breaks one has
  no meaning in this spec" (R5, U24). Safe: the model stops where the spec gives no meaning (log 2). -/
  | illegalConfiguration
  deriving DecidableEq, Repr

/-- Why the machine gives an operation no meaning. -/
inductive Refusal where
  /-- Raised by an arm of `exec` whose operation has no meaning yet. Safe. No arm raises it in this model.
  (The status `Refused` of R268 is no refusal: it is a response word in a next state.) -/
  | notModelled (mnemonic : String)
  deriving DecidableEq, Repr

/-- The reset state of a configuration and given pad words (R45): the pad words are an argument of the launch
state, every register of SWBUS has its reset value, nothing is scheduled. -/
def State.launch (c : Cfg) (padreg : List Nat) : State :=
  { cfg := c, padreg := padreg, pins := List.replicate c.nPads Pin.atReset, eng := Engine.atReset,
    txbuf := [], drv := Driver.atReset, cyc := 0, env := [], host := [], draws := 0, rsp := none }

/-- The machine right after reset. DESIGN CHOICE (log 1, log 3): `Cfg` is REF and every pad word is REF's
`PAD_RESET`; the spec leaves both open, and no statement rests on them but those that name REF. -/
def State.reset : State := State.launch Config.ref Config.ref.padReset

end Sys2Proof.Machine
end

