-- ==== Sys2Proof/Machine/Operands.lean ====
section
/-! DEFINITION. What the operands and the configuration mean: the constraints of `Cfg` (spec/00_scope.md R5),
the supported pads (spec/20_memory.md R61), the positions of a pad's bits (spec/10_state.md R22), and the
bits and cells of a byte (spec/30_encoding.md R102, R103). -/

namespace Sys2Proof.Machine

/-! ### The constraints of the configuration record (R5) -/

/-- No two entries are equal. -/
def pairwiseDistinct : List (Nat × Nat) → Bool
  | [] => true
  | x :: xs => !xs.contains x && pairwiseDistinct xs

/-- All pairs `(PAD_WORD(i), PUE_BIT(i))` and `(PAD_WORD(i), PDE_BIT(i))` (R5). -/
def Cfg.bitPositions (c : Cfg) : List (Nat × Nat) :=
  c.pads.flatMap fun q => [(q.word, q.pueBit), (q.word, q.pdeBit)]

/-- The pad geometry obeys R5: 1 to 256 pads, words of at least 2 bits, at least one word, every position
inside a word, all positions pairwise distinct, every `PAD_RESET` word `PAD_W` bits wide. -/
def Cfg.padsLegal (c : Cfg) : Bool :=
  decide (1 ≤ c.nPads) && decide (c.nPads ≤ 256) && decide (2 ≤ c.padW) && decide (1 ≤ c.nWords) &&
  c.pads.all (fun q => decide (q.word < c.nWords) && decide (q.pueBit < c.padW) && decide (q.pdeBit < c.padW)) &&
  pairwiseDistinct (Cfg.bitPositions c) &&
  c.padReset.all fun w => decide (w < 2 ^ c.padW)

/-- The bus parameters obey R5: `T_START`, `T_HALF`, `T_TIMEOUT` at least 1 (each duration is below `2^32` by
its type), distinct cell codes, and the single legal values of `BIT_ORDER` and `ACK_LEVEL` (D17, D19, U8, U11). -/
def Cfg.busLegal (c : Cfg) : Bool :=
  decide (c.busGrp < 4) && decide (c.busPin < 256) &&
  decide (c.tStart ≠ 0#32) && decide (c.tHalf ≠ 0#32) && decide (c.tTimeout ≠ 0#32) &&
  decide (c.bitOrder = .msbFirst) && decide (c.cell0 ≠ c.cell1) && !c.ackLevel && decide (c.maxData ≤ 255)

/-- `Cfg` satisfies every constraint of R5. -/
def Cfg.legal (c : Cfg) : Bool := Cfg.padsLegal c && Cfg.busLegal c

/-! ### Pads (R61, R22) -/

/-- `Supported(g, i)`: exactly when `g = 0 and i < N_PADS` (R61). -/
def supported (c : Cfg) (g i : Nat) : Bool := decide (g = 0) && decide (i < c.nPads)

/-- The positions of pad `i`'s enables (R5). Used for supported pads only. -/
def padPos (c : Cfg) (i : Nat) : PadPos := c.pads[i]?.getD { word := 0, pueBit := 0, pdeBit := 0 }

/-- `PAD_WORD(i)`. -/
def padWordOf (c : Cfg) (i : Nat) : Nat := (padPos c i).word

/-- `PUE_BIT(i)`. -/
def pueBitOf (c : Cfg) (i : Nat) : Nat := (padPos c i).pueBit

/-- `PDE_BIT(i)`. -/
def pdeBitOf (c : Cfg) (i : Nat) : Nat := (padPos c i).pdeBit

/-! ### Bits and cells (R102, R103) -/

/-- The bit of byte `b` carried by cell `j`, cell 0 first: `b[7-j]` most significant first, `b[j]` least
significant first (R102). -/
def txBit (c : Cfg) (b : Byte) (j : Nat) : Bool :=
  match c.bitOrder with
  | .msbFirst => b.getLsbD (7 - j)
  | .lsbFirst => b.getLsbD j

/-- `CELL_CODE(v)` (R103). -/
def cellCode (c : Cfg) (v : Bool) : Od × Od := if v then c.cell1 else c.cell0

/-- The pair of line states of cell `j` of byte `b` (R208). -/
def cellOf (c : Cfg) (b : Byte) (j : Nat) : Od × Od := cellCode c (txBit c b j)

end Sys2Proof.Machine
end

