-- ==== Sys2Proof/Machine/Flags.lean ====
section
/-! DEFINITION. SWBUS has no flags register (spec/10_state.md R20). What stands in its place: the status codes
and the response word (spec/30_encoding.md R96, R97), the codes of the FSM state (R98), and the CRC
(spec/43_bus_driver.md R209). -/

namespace Sys2Proof.Machine

/-- The status codes, three bits (R97). -/
def Status.code : Status → BitVec 3
  | .ok => 0#3
  | .unsupportedPad => 1#3
  | .pinConfigurationFailed => 2#3
  | .pinAlreadyOwned => 3#3
  | .noAcknowledge => 4#3
  | .busTimeout => 5#3
  | .crcMismatch => 6#3
  | .refused => 7#3

/-- The codes of `drv.state` on the port `drv_state` (R98). -/
def DrvState.code : DrvState → BitVec 3
  | .idle => 0#3
  | .startCondition => 1#3
  | .addressPhase => 2#3
  | .commandPhase => 3#3
  | .dataPhase => 4#3
  | .crcPhase => 5#3
  | .standbyPulse => 6#3
  | .error => 7#3

/-- The response word: `ST` in bits 31:28, `HND` in 23:16, `VAL` in bit 0, the rest 0 (R96). -/
def responseWord (st : Status) (hnd : BitVec 8) (val : Bool) : Word :=
  (0#1 ++ st.code) ++ 0#4 ++ hnd ++ 0#15 ++ BitVec.ofBool val

/-- The response of an operation that ends with a value: `Ok` and `VAL` (R96). -/
def okValue (val : Bool) : Word := responseWord .ok 0#8 val

/-- The response of `configure`: `Ok` and the handle (R96, R171). -/
def okHandle (hnd : BitVec 8) : Word := responseWord .ok hnd false

/-- The response with no value: `HND` and `VAL` are 0 (R96, R260). -/
def statusOnly (st : Status) : Word := responseWord st 0#8 false

/-! ### CRC (R209) -/

/-- One of the eight shifts of `CrcUpdate`. -/
def crcShift (poly c : Byte) : Byte := if c.getLsbD 7 then (c <<< 1) ^^^ poly else c <<< 1

/-- `k` of those shifts. -/
def crcShifts (poly : Byte) : Nat → Byte → Byte
  | 0, c => c
  | k + 1, c => crcShifts poly k (crcShift poly c)

/-- `CrcUpdate(c, B)` (R209). -/
def crcUpdate (cfg : Cfg) (c b : Byte) : Byte := crcShifts cfg.crcPoly 8 (c ^^^ b)

/-- The accumulator after the given bytes, from `CRC_INIT` (R209). -/
def crcRun (cfg : Cfg) (bytes : List Byte) : Byte := bytes.foldl (crcUpdate cfg) cfg.crcInit

/-- `CrcOf(B0, ..., Bm)` (R209). -/
def crcOf (cfg : Cfg) (bytes : List Byte) : Byte := crcRun cfg bytes ^^^ cfg.crcXorout

end Sys2Proof.Machine
end

