-- ==== Sys2Proof/Machine/Ops.lean ====
section
/-! DEFINITION. The named operations over SWBUS's state: the transmit buffer (spec/10_state.md R30), pad words
(spec/20_memory.md R63, R64), pin registers, the line and its samples (R66, R67), answering a request and
raising an error (spec/00_scope.md R7), and the two ends of a transaction (spec/43_bus_driver.md R211, R218). -/

namespace Sys2Proof.Machine

/-! ### The byte store `TXBUF` (R30): cells by rising index, an unlisted index reads as `none` -/

/-- The byte at index `a`, `none` where nothing was written. -/
def Memory.read : List Host.Cell → Nat → Option Byte
  | [], _ => none
  | (b, u) :: m, a => if a = b then some u else Memory.read m a

/-- The store with byte `v` at index `a`. -/
def Memory.write : List Host.Cell → Nat → Byte → List Host.Cell
  | [], a, v => [(a, v)]
  | (b, u) :: m, a, v =>
    if a < b then (a, v) :: (b, u) :: m
    else if a = b then (a, v) :: m
    else (b, u) :: Memory.write m a v

/-- The canonical form: indices strictly rising. (No cell can equal what an unlisted index reads as.) -/
def Memory.wf : List Host.Cell → Bool
  | [] => true
  | [_] => true
  | (a, _) :: (b, u) :: m => decide (a < b) && Memory.wf ((b, u) :: m)

/-! ### Pad words (R63, R64) -/

/-- `MemRead(a, PAD_W)` (R63). -/
def State.memRead (s : State) (a : Nat) : Nat := s.padreg[a]?.getD 0

/-- `MemWrite(a, PAD_W, v)` (R63). -/
def State.memWrite (s : State) (a v : Nat) : State := { s with padreg := s.padreg.set a v }

/-- `w | (1 << b)` at `PAD_W` bits (R64). -/
def withBitSet (padW w b : Nat) : Nat := (BitVec.ofNat padW w ||| 1#padW <<< b).toNat

/-- `w & ~(1 << b)` at `PAD_W` bits: AND with the complement of the mask (R64, C1). -/
def withBitClear (padW w b : Nat) : Nat := (BitVec.ofNat padW w &&& ~~~(1#padW <<< b)).toNat

/-- `SetBit(a, b)` (R64). -/
def State.setBit (s : State) (a b : Nat) : State := s.memWrite a (withBitSet s.cfg.padW (s.memRead a) b)

/-- `ClrBit(a, b)` (R64). -/
def State.clrBit (s : State) (a b : Nat) : State := s.memWrite a (withBitClear s.cfg.padW (s.memRead a) b)

/-- Bit `b` of pad word `a`. -/
def State.padBit (s : State) (a b : Nat) : Bool := (s.memRead a).testBit b

/-- `PUE(i)` (R22). -/
def State.pue (s : State) (i : Nat) : Bool := s.padBit (padWordOf s.cfg i) (pueBitOf s.cfg i)

/-- `PDE(i)` (R22). -/
def State.pde (s : State) (i : Nat) : Bool := s.padBit (padWordOf s.cfg i) (pdeBitOf s.cfg i)

/-! ### Pin registers -/

/-- The registers of pin `p` (R24 to R28). Used for `p < N_PADS`. -/
def State.pin (s : State) (p : Nat) : Pin := s.pins[p]?.getD Pin.atReset

/-- Writes the registers of pin `p`. -/
def State.updPin (s : State) (p : Nat) (f : Pin → Pin) : State := { s with pins := s.pins.modify p f }

/-- `od[p] <- o; oe[p] <- (1 if o = DrivenLow else 0)`, the register writes of `release` and `drive_low`
(R151, R152; `SetOd` of spec/43_bus_driver.md). -/
def State.setOdAt (s : State) (p : Nat) (o : Od) : State :=
  s.updPin p fun q => { q with od := some o, oe := decide (o = .drivenLow) }

/-- `SetOd(o)` on the bus pin (43_bus_driver.md, opening). -/
def State.setOd (s : State) (o : Od) : State := s.setOdAt s.cfg.busPin o

/-! ### The line (R66, R67) -/

/-- What the block's own pad puts on a line (R66). -/
inductive Drive where
  | hiZ
  | low
  | high
  deriving DecidableEq, Repr

/-- The level of a line (R67). `unspecified` is given no value. -/
inductive Level where
  | low
  | high
  | unspecified
  deriving DecidableEq, Repr

/-- `Drive` of a pin's registers (R66). -/
def Pin.drive (q : Pin) : Drive :=
  if !q.oe then .hiZ
  else if q.ovr then .low
  else if q.out then .high
  else .low

/-- `Drive(p)` (R66). -/
def State.drive (s : State) (p : Nat) : Drive := (s.pin p).drive

/-- `ext[p]` in the current cycle: some other participant holds pin `p`'s line low (R36). Past the end of the
schedule it is the free value `Config.freeExt` (log 5). -/
def State.ext (s : State) (p : Nat) : Bool :=
  match s.env with
  | c :: _ => c.low.contains p
  | [] => Config.freeExt s.cyc p

/-- The level of a line from its four causes (R67). -/
def resolve (d : Drive) (ext pue pde : Bool) : Level :=
  match d, ext with
  | .high, true => .unspecified
  | .low, _ => .low
  | .hiZ, true => .low
  | .high, false => .high
  | .hiZ, false =>
    match pue, pde with
    | true, false => .high
    | false, true => .low
    | true, true => .unspecified
    | false, false => .unspecified

/-- `Line(p)` in the current cycle (R67). -/
def State.line (s : State) (p : Nat) : Level := resolve (s.drive p) (s.ext p) (s.pue p) (s.pde p)

/-- The value a use of pin `p`'s line gets: its level, 1 when high; a free draw where it is `unspecified`
(R67, log 7). -/
def State.sampleValue (s : State) (p : Nat) : Bool :=
  match s.line p with
  | .low => false
  | .high => true
  | .unspecified => Config.freeLevel s.draws

/-- The state after a use of pin `p`'s line: a free draw is used up where the line is `unspecified`, so that
two uses need not agree (R67, R153, log 7); nothing else changes. -/
def State.afterSample (s : State) (p : Nat) : State :=
  match s.line p with
  | .low => s
  | .high => s
  | .unspecified => { s with draws := s.draws + 1 }

/-! ### Answering a request; raising an error (R7, R96, R260) -/

/-- Presents response word `r`. -/
def State.respond (s : State) (r : Word) : State := { s with rsp := some r }

/-- Presents no response in this step. -/
def State.silent (s : State) : State := { s with rsp := none }

/-- `raise E`: the operation ends now, changes nothing else, and its response carries `E` (R7, R260, R267). -/
def raise (e : Status) (s : State) : Host.Outcome State Fault Refusal := .next (s.respond (statusOnly e))

/-- `return`: the operation ends with `Ok` and no value (R7). -/
def returnOk (s : State) : Host.Outcome State Fault Refusal := .next (s.respond (statusOnly .ok))

/-! ### The ends of a transaction (R211, R218, R270) -/

/-- What every exit of a transaction does: the line released, the FSM state and `drv.err` set, not busy,
`TXBUF` emptied, the `transact` answered (R211, R218). -/
def endTransaction (st : DrvState) (e : Status) (s : State) : State :=
  let t := s.setOd .released
  { t with drv := { t.drv with state := st, err := e, busy := false }, txbuf := [], rsp := some (statusOnly e) }

/-- `Fail(E)` (R211, R270). -/
def failTransaction (e : Status) (s : State) : State := endTransaction .error e s

/-- `Complete` (R218). -/
def completeTransaction (s : State) : State := endTransaction .idle .ok s

end Sys2Proof.Machine
end

