-- ==== Sys2Proof/Machine/BitTiming.lean ====
section
/-! DEFINITION. The Bit Timing Engine: its operations and its tick (spec/42_bit_timing.md R170 to R178). -/

namespace Sys2Proof.Machine

/-- `configure p, H` (R171). The handle returned is 0 (R99). -/
def execConfigure (p half : Nat) (s : State) : Host.Outcome State Fault Refusal :=
  if s.eng.run then raise .refused s
  else if s.cfg.nPads ≤ p then raise .refused s
  else if half = 0 then raise .refused s
  else
    .next ({ s with eng := { s.eng with cfgd := true, pin := BitVec.ofNat 8 p, half := BitVec.ofNat 16 half } }.respond
      (okHandle 0#8))

/-- The writes of a successful `start`: the program begins with "set pin 1" (R172). -/
def startEngine (s : State) : State :=
  { s.updPin s.eng.pin.toNat (fun q => { q with owner := .engine, oe := true, out := true }) with
    eng := { s.eng with run := true, lvl := true, cnt := s.eng.half } }

/-- `start h` (R172). -/
def execStart (h : Nat) (s : State) : Host.Outcome State Fault Refusal :=
  if !decide (h = 0) || !s.eng.cfgd || s.eng.run then raise .refused s
  else if (s.pin s.eng.pin.toNat).owner = .emulator then raise .pinAlreadyOwned s
  else returnOk (startEngine s)

/-- The writes of `stop` on a running engine: the pin undriven and given up, the configuration kept (R173). -/
def stopEngine (s : State) : State :=
  { s.updPin s.eng.pin.toNat (fun q => { q with owner := .nobody, oe := false, out := false }) with
    eng := { s.eng with run := false, lvl := false, cnt := 0#16 } }

/-- `stop h` (R173). -/
def execStop (h : Nat) (s : State) : Host.Outcome State Fault Refusal :=
  if h ≠ 0 then raise .refused s
  else if !s.eng.run then returnOk s
  else returnOk (stopEngine s)

/-- `EngineTick`, applied in every tick that begins with `eng.run = 1` (R174). -/
def engineTick (s : State) : State :=
  if s.eng.cnt = 1#16 then
    { s.updPin s.eng.pin.toNat (fun q => { q with out := !s.eng.lvl }) with
      eng := { s.eng with lvl := !s.eng.lvl, cnt := s.eng.half } }
  else { s with eng := { s.eng with cnt := s.eng.cnt - 1#16 } }

end Sys2Proof.Machine
end

