-- ==== Sys2Proof/Machine/OpenDrain.lean ====
section
/-! DEFINITION. The Open-Drain Pin Emulator operations (spec/41_open_drain.md R150 to R156). -/

namespace Sys2Proof.Machine

/-- The three checks of `acquire g, p`, in their order: the error it raises, or `none` (R150). -/
def acquireError (s : State) (g p : Nat) : Option Status :=
  if !supported s.cfg g p then some .pinConfigurationFailed
  else
    match (s.pin p).owner with
    | .engine => some .pinAlreadyOwned
    | .emulator => some .refused
    | .nobody => none

/-- The writes of a successful `acquire` of pin `p`: pull-up enabled, override applied, pin claimed and
`Released` (R150). -/
def acquirePin (s : State) (p : Nat) : State :=
  (s.setBit (padWordOf s.cfg p) (pueBitOf s.cfg p)).updPin p fun _ =>
    { ovr := true, oe := false, out := false, owner := .emulator, od := some .released }

/-- `acquire g, p` (R150). -/
def execAcquire (g p : Nat) (s : State) : Host.Outcome State Fault Refusal :=
  match acquireError s g p with
  | some e => raise e s
  | none => returnOk (acquirePin s p)

/-- Pin `p` exists and is acquired: not (`p >= N_PADS or od[p] = none`) (R151, R152). -/
def acquired (s : State) (p : Nat) : Bool := decide (p < s.cfg.nPads) && (s.pin p).od.isSome

/-- `release p` (R151). -/
def execRelease (p : Nat) (s : State) : Host.Outcome State Fault Refusal :=
  if !acquired s p then raise .refused s
  else returnOk (s.setOdAt p .released)

/-- `drive_low p` (R152). -/
def execDriveLow (p : Nat) (s : State) : Host.Outcome State Fault Refusal :=
  if !acquired s p then raise .refused s
  else returnOk (s.setOdAt p .drivenLow)

/-- `read p` (R153). Where the line is `unspecified` the value is a free draw. -/
def execRead (p : Nat) (s : State) : Host.Outcome State Fault Refusal :=
  if !(decide (p < s.cfg.nPads) && decide ((s.pin p).od = some .released)) then raise .refused s
  else .next ((s.afterSample p).respond (okValue (s.sampleValue p)))

end Sys2Proof.Machine
end

