-- ==== Sys2Proof/Machine/BusDriver.lean ====
section
/-! DEFINITION. The Single-Wire Bus Driver: its operations and its tick (spec/43_bus_driver.md R200 to R227). -/

namespace Sys2Proof.Machine

/-! ### Operations -/

/-- `wrbuf k, byte` (R201). -/
def execWrbuf (k : Nat) (byte : Byte) (s : State) : Host.Outcome State Fault Refusal :=
  if s.cfg.maxData ≤ k then raise .refused s
  else returnOk { s with txbuf := Memory.write s.txbuf k byte }

/-- Stage 1 of `transact`, the request check: `n > MAX_DATA`, or some `k < n` with `TXBUF[k] = none` (R202). -/
def transactRefused (s : State) (n : Nat) : Bool :=
  decide (s.cfg.maxData < n) || (List.range n).any fun k => (Memory.read s.txbuf k).isNone

/-- Stage 2 has to acquire the bus pin: not (`Supported(BUS_GRP, BUS_PIN) and od[BUS_PIN] != none`) (R203). -/
def needsAcquire (s : State) : Bool :=
  !(supported s.cfg s.cfg.busGrp s.cfg.busPin && (s.pin s.cfg.busPin).od.isSome)

/-- Stage 3 of `transact`: the operands latched, the driver busy, the line driven low; no response yet (R204). -/
def startTransaction (sel cmd : Byte) (n : Nat) (s : State) : State :=
  let t := s.setOd .drivenLow
  { t with
    drv := { sel := sel, cmd := cmd, n := BitVec.ofNat 8 n, crc := s.cfg.crcInit, byte := 0#9, bit := 0#4, err := .ok,
             busy := true, state := .startCondition, step := .startLow, cnt := s.cfg.tStart }
    rsp := none }

/-- `transact sel, cmd, n`: request check, set-up, start (R202, R203, R204). -/
def execTransact (sel cmd : Byte) (n : Nat) (s : State) : Host.Outcome State Fault Refusal :=
  if transactRefused s n then raise .refused s
  else if needsAcquire s then
    match acquireError s s.cfg.busGrp s.cfg.busPin with
    | some e => raise e s
    | none => .next (startTransaction sel cmd n (acquirePin s s.cfg.busPin))
  else .next (startTransaction sel cmd n s)

/-! ### The transaction, one cycle at a time (R221) -/

/-- `CurByte` with `drv.byte = k`: byte `k` of the frame (R221, R34). An entry of `TXBUF` that holds `none`
cannot be named here (log 9). -/
def frameByte (s : State) (k : Nat) : Byte :=
  if k = 0 then s.drv.sel
  else if k = 1 then s.drv.cmd
  else if k ≤ s.drv.n.toNat + 1 then (Memory.read s.txbuf (k - 2)).getD 0
  else s.drv.crc ^^^ s.cfg.crcXorout

/-- `Phase(k)` of a frame with `n` data bytes (R221). -/
def phaseOf (n k : Nat) : DrvState :=
  if k = 0 then .addressPhase
  else if k = 1 then .commandPhase
  else if k ≤ n + 1 then .dataPhase
  else .crcPhase

/-- `Cell(j)` of the byte in hand (R221). -/
def curCell (s : State) (j : Nat) : Od × Od := cellOf s.cfg (frameByte s s.drv.byte.toNat) j

/-- The driver moves to step `st` with `cnt` cycles, or samples, to go. -/
def goTo (st : DrvStep) (cnt : BitVec 32) (s : State) : State :=
  { s with drv := { s.drv with step := st, cnt := cnt } }

/-- `drv.cnt <- drv.cnt - 1`. -/
def countDown (s : State) : State := { s with drv := { s.drv with cnt := s.drv.cnt - 1#32 } }

/-- `BeginByte(k)` (R221). -/
def beginByte (k : BitVec 9) (s : State) : State :=
  let t := s.setOd (cellOf s.cfg (frameByte s k.toNat) 0).1
  { t with drv := { t.drv with byte := k, bit := 0#4, state := phaseOf s.drv.n.toNat k.toNat, step := .bitFirst,
                               cnt := s.cfg.tHalf } }

/-- `StartLow`: the start pulse (R212, R221). -/
def tickStartLow (s : State) : State :=
  if s.drv.cnt = 1#32 then goTo .startRise s.cfg.tTimeout (s.setOd .released) else countDown s

/-- `StartRise`: the wait for the released line to be high (R212, R221). -/
def tickStartRise (x : Bool) (s : State) : State :=
  if x then beginByte 0#9 s
  else if s.drv.cnt = 1#32 then failTransaction .busTimeout s
  else countDown s

/-- `BitFirst`: the first half of a cell (R208, R221). -/
def tickBitFirst (s : State) : State :=
  if s.drv.cnt = 1#32 then goTo .bitSecond s.cfg.tHalf (s.setOd (curCell s s.drv.bit.toNat).2) else countDown s

/-- The byte is out: the CRC takes it in unless it is the CRC byte, and the ack slot begins (R221, R210). -/
def byteOut (s : State) : State :=
  let crc := if s.drv.byte.toNat ≤ s.drv.n.toNat + 1 then crcUpdate s.cfg s.drv.crc (frameByte s s.drv.byte.toNat)
             else s.drv.crc
  let t := s.setOd .released
  let u := { t with drv := { t.drv with crc := crc, bit := 8#4 } }
  if s.cfg.tAckDelay = 0#32 then goTo .ackWait s.cfg.tTimeout u else goTo .ackDelay s.cfg.tAckDelay u

/-- `BitSecond`: the second half of a cell (R208, R221). -/
def tickBitSecond (s : State) : State :=
  if 1#32 < s.drv.cnt then countDown s
  else if s.drv.bit < 7#4 then
    let t := s.setOd (curCell s (s.drv.bit.toNat + 1)).1
    { t with drv := { t.drv with bit := s.drv.bit + 1#4, step := .bitFirst, cnt := s.cfg.tHalf } }
  else byteOut s

/-- `AckDelay`: the cycles in which the line is ignored (R210, R221). -/
def tickAckDelay (s : State) : State :=
  if s.drv.cnt = 1#32 then goTo .ackWait s.cfg.tTimeout s else countDown s

/-- `AckWait`: the wait for the acknowledge (R210, R221). -/
def tickAckWait (x : Bool) (s : State) : State :=
  if x = s.cfg.ackLevel then goTo .ackRise s.cfg.tTimeout s
  else if s.drv.cnt = 1#32 then failTransaction .noAcknowledge s
  else countDown s

/-- The ack slot is over with `Ok`: the next byte, or the standby pulse, or the end (R221, R217, R218). -/
def slotDone (s : State) : State :=
  if s.drv.byte.toNat < s.drv.n.toNat + 2 then beginByte (s.drv.byte + 1#9) s
  else if s.cfg.tStandby = 0#32 then completeTransaction s
  else { s with drv := { s.drv with state := .standbyPulse, step := .standby, cnt := s.cfg.tStandby } }

/-- `AckRise`: the wait for the line to be let go (R210, R221). -/
def tickAckRise (x : Bool) (s : State) : State :=
  if x = !s.cfg.ackLevel then slotDone s
  else if s.drv.cnt = 1#32 then failTransaction .busTimeout s
  else countDown s

/-- `Standby`: the standby pulse (R217, R221). -/
def tickStandby (s : State) : State :=
  if s.drv.cnt = 1#32 then completeTransaction s else countDown s

/-- `DriverTick(x)`, applied in every tick that begins with `drv.busy = 1`; `x` is the sample of the bus line
for the cycle that is ending (R221, R42). -/
def driverTick (x : Bool) (s : State) : State :=
  match s.drv.step with
  | .startLow => tickStartLow s
  | .startRise => tickStartRise x s
  | .bitFirst => tickBitFirst s
  | .bitSecond => tickBitSecond s
  | .ackDelay => tickAckDelay s
  | .ackWait => tickAckWait x s
  | .ackRise => tickAckRise x s
  | .standby => tickStandby s

end Sys2Proof.Machine
end

