-- ==== Sys2Proof/Machine/PadPull.lean ====
section
/-! DEFINITION. The Pad Pull Controller operations (spec/40_pad_pull.md R130 to R137). -/

namespace Sys2Proof.Machine

/-- `get_pull_up g, i` (R131). -/
def execGetPullUp (g i : Nat) (s : State) : Host.Outcome State Fault Refusal :=
  if !supported s.cfg g i then raise .unsupportedPad s
  else .next (s.respond (okValue ((s.memRead (padWordOf s.cfg i)).testBit (pueBitOf s.cfg i))))

/-- `set_pull_up g, i, enabled` (R132). -/
def execSetPullUp (g i : Nat) (enabled : Bool) (s : State) : Host.Outcome State Fault Refusal :=
  if !supported s.cfg g i then raise .unsupportedPad s
  else if enabled then returnOk (s.setBit (padWordOf s.cfg i) (pueBitOf s.cfg i))
  else returnOk (s.clrBit (padWordOf s.cfg i) (pueBitOf s.cfg i))

/-- `get_pull_down g, i` (R133). -/
def execGetPullDown (g i : Nat) (s : State) : Host.Outcome State Fault Refusal :=
  if !supported s.cfg g i then raise .unsupportedPad s
  else .next (s.respond (okValue ((s.memRead (padWordOf s.cfg i)).testBit (pdeBitOf s.cfg i))))

/-- `set_pull_down g, i, enabled` (R134). -/
def execSetPullDown (g i : Nat) (enabled : Bool) (s : State) : Host.Outcome State Fault Refusal :=
  if !supported s.cfg g i then raise .unsupportedPad s
  else if enabled then returnOk (s.setBit (padWordOf s.cfg i) (pdeBitOf s.cfg i))
  else returnOk (s.clrBit (padWordOf s.cfg i) (pdeBitOf s.cfg i))

end Sys2Proof.Machine
end

