-- ==== Sys2Proof/Machine/Dispatch.lean ====
section
/-! DEFINITION. The meaning of every operation, one arm for each (spec/30_encoding.md R92): the step `Op` of a
request that decodes (spec/10_state.md R41). -/

namespace Sys2Proof.Machine

def exec (i : Instr) (s : State) : Host.Outcome State Fault Refusal :=
  match i with
  | .getPullUp g k => Sys2Proof.Machine.execGetPullUp g k s
  | .setPullUp g k enabled => Sys2Proof.Machine.execSetPullUp g k enabled s
  | .getPullDown g k => Sys2Proof.Machine.execGetPullDown g k s
  | .setPullDown g k enabled => Sys2Proof.Machine.execSetPullDown g k enabled s
  | .acquire g p => Sys2Proof.Machine.execAcquire g p s
  | .release p => Sys2Proof.Machine.execRelease p s
  | .driveLow p => Sys2Proof.Machine.execDriveLow p s
  | .read p => Sys2Proof.Machine.execRead p s
  | .configure p half => Sys2Proof.Machine.execConfigure p half s
  | .start h => Sys2Proof.Machine.execStart h s
  | .stop h => Sys2Proof.Machine.execStop h s
  | .transact sel cmd n => Sys2Proof.Machine.execTransact sel cmd n s
  | .wrbuf k byte => Sys2Proof.Machine.execWrbuf k byte s

end Sys2Proof.Machine
end

