-- ==== Sys2Proof/WellFormed.lean ====
section
/-! DEFINITION. Which terms of `Instr` a request word can carry (spec/30_encoding.md R91, R92): each operand
fits its field. Operand values that fit but that an operation rejects are well formed (R93). -/

namespace Sys2Proof

/-- `GRP` is two bits: a pad group is `0..3` (R91). -/
abbrev GroupFits (g : Nat) : Prop := g < 4

/-- `IDX` is eight bits: a pad or pin index, a handle, a data count and a buffer index are `0..255` (R91). -/
abbrev IndexFits (i : Nat) : Prop := i < 256

/-- `IMM` is sixteen bits: a half-period is `0..65535` (R91, R92). -/
abbrev ImmediateFits (h : Nat) : Prop := h < 65536

/-- The operation's operands fit the fields of its request word (R92). -/
def Instr.wellFormed : Instr → Bool
  | .getPullUp g i => decide (GroupFits g) && decide (IndexFits i)
  | .setPullUp g i _ => decide (GroupFits g) && decide (IndexFits i)
  | .getPullDown g i => decide (GroupFits g) && decide (IndexFits i)
  | .setPullDown g i _ => decide (GroupFits g) && decide (IndexFits i)
  | .acquire g p => decide (GroupFits g) && decide (IndexFits p)
  | .release p => decide (IndexFits p)
  | .driveLow p => decide (IndexFits p)
  | .read p => decide (IndexFits p)
  | .configure p half => decide (IndexFits p) && decide (ImmediateFits half)
  | .start h => decide (IndexFits h)
  | .stop h => decide (IndexFits h)
  | .transact _ _ n => decide (IndexFits n)
  | .wrbuf k _ => decide (IndexFits k)

/-- `i` is an operation a request word can carry. -/
abbrev WellFormed (i : Instr) : Prop := i.wellFormed = true

end Sys2Proof
end

