-- ==== Sys2Proof/Decode.lean ====
section
/-! DEFINITION. The request word: its fields, the operation rows with their masks, the total decoder, and
the encoder (spec/30_encoding.md R91 to R95). -/

namespace Sys2Proof

/-! ### The fields of a request word (R91) -/

/-- `OPC = w[31:28]`. -/
def fieldOpc (w : Word) : BitVec 4 := w.extractLsb' 28 4

/-- `GRP = w[27:26]`. -/
def fieldGrp (w : Word) : BitVec 2 := w.extractLsb' 26 2

/-- `RSV = w[25:24]`. -/
def fieldRsv (w : Word) : BitVec 2 := w.extractLsb' 24 2

/-- `IDX = w[23:16]`. -/
def fieldIdx (w : Word) : BitVec 8 := w.extractLsb' 16 8

/-- `IMM = w[15:0]`. -/
def fieldImm (w : Word) : Half := w.extractLsb' 0 16

/-- `IMM[15:8]`: the device-select byte of `transact` (R92). -/
def fieldSel (w : Word) : Byte := w.extractLsb' 8 8

/-- `IMM[7:0]`: the command byte of `transact`, the byte of `wrbuf` (R92). -/
def fieldLow (w : Word) : Byte := w.extractLsb' 0 8

/-- `IMM[0]`: the boolean `enabled`, 1 for true (R92). -/
def fieldEnabled (w : Word) : Bool := w.getLsbD 0

/-- The word with the given fields and `RSV = 0` (R91, R95). -/
def wordOf (opc : BitVec 4) (grp : BitVec 2) (idx : BitVec 8) (imm : Half) : Word :=
  opc ++ grp ++ 0#2 ++ idx ++ imm

/-! ### Decoding (R92, R93) -/

/-- One row of R92: a word `w` selects it when `w & mask = pat`; `build` reads the operands. -/
structure Row where
  mask : Word
  pat : Word
  build : Word → Instr

/-- The rows of R92, in its order. -/
def rows : List Row :=
  [ ⟨0xF300FFFF#32, 0x00000000#32, fun w => .getPullUp (fieldGrp w).toNat (fieldIdx w).toNat⟩,
    ⟨0xF300FFFE#32, 0x10000000#32, fun w => .setPullUp (fieldGrp w).toNat (fieldIdx w).toNat (fieldEnabled w)⟩,
    ⟨0xF300FFFF#32, 0x20000000#32, fun w => .getPullDown (fieldGrp w).toNat (fieldIdx w).toNat⟩,
    ⟨0xF300FFFE#32, 0x30000000#32, fun w => .setPullDown (fieldGrp w).toNat (fieldIdx w).toNat (fieldEnabled w)⟩,
    ⟨0xF300FFFF#32, 0x40000000#32, fun w => .acquire (fieldGrp w).toNat (fieldIdx w).toNat⟩,
    ⟨0xFF00FFFF#32, 0x50000000#32, fun w => .release (fieldIdx w).toNat⟩,
    ⟨0xFF00FFFF#32, 0x60000000#32, fun w => .driveLow (fieldIdx w).toNat⟩,
    ⟨0xFF00FFFF#32, 0x70000000#32, fun w => .read (fieldIdx w).toNat⟩,
    ⟨0xFF000000#32, 0x80000000#32, fun w => .configure (fieldIdx w).toNat (fieldImm w).toNat⟩,
    ⟨0xFF00FFFF#32, 0x90000000#32, fun w => .start (fieldIdx w).toNat⟩,
    ⟨0xFF00FFFF#32, 0xA0000000#32, fun w => .stop (fieldIdx w).toNat⟩,
    ⟨0xFF000000#32, 0xB0000000#32, fun w => .transact (fieldSel w) (fieldLow w) (fieldIdx w).toNat⟩,
    ⟨0xFF00FF00#32, 0xC0000000#32, fun w => .wrbuf (fieldIdx w).toNat (fieldLow w)⟩ ]

/-- `w` selects the row `r` (R92). -/
def Row.selectedBy (r : Row) (w : Word) : Bool := w &&& r.mask == r.pat

/-- The operation of a request word, or `none` where the word is reserved (R93, R94). Total on all words. -/
def decode (w : Word) : Option Instr :=
  (rows.find? fun r => r.selectedBy w).map fun r => r.build w

/-- The operation the decoder reads from a table word `w` of `nbits` bits (bit 0 least significant, as
spec/opcode_table.json numbers them). A request is one 32-bit word; bits above `nbits` are 0 (log 12). -/
def decodeTableWord (nbits w : Nat) : Option Instr :=
  if nbits ≤ 32 then decode (BitVec.ofNat 32 (w % 2 ^ nbits)) else none

/-! ### Encoding (R95) -/

/-- `IMM` of a set operation: bit 0 is `enabled`, bits 15:1 are 0 (R92). -/
def immOfEnabled (enabled : Bool) : Half := 0#15 ++ BitVec.ofBool enabled

/-- The request word of an operation: `(OPC << 28) | (g << 26) | (IDX << 16) | IMM`, zero elsewhere (R95). -/
def encode : Instr → Word
  | .getPullUp g i => wordOf 0#4 (BitVec.ofNat 2 g) (BitVec.ofNat 8 i) 0#16
  | .setPullUp g i enabled => wordOf 1#4 (BitVec.ofNat 2 g) (BitVec.ofNat 8 i) (immOfEnabled enabled)
  | .getPullDown g i => wordOf 2#4 (BitVec.ofNat 2 g) (BitVec.ofNat 8 i) 0#16
  | .setPullDown g i enabled => wordOf 3#4 (BitVec.ofNat 2 g) (BitVec.ofNat 8 i) (immOfEnabled enabled)
  | .acquire g p => wordOf 4#4 (BitVec.ofNat 2 g) (BitVec.ofNat 8 p) 0#16
  | .release p => wordOf 5#4 0#2 (BitVec.ofNat 8 p) 0#16
  | .driveLow p => wordOf 6#4 0#2 (BitVec.ofNat 8 p) 0#16
  | .read p => wordOf 7#4 0#2 (BitVec.ofNat 8 p) 0#16
  | .configure p half => wordOf 8#4 0#2 (BitVec.ofNat 8 p) (BitVec.ofNat 16 half)
  | .start h => wordOf 9#4 0#2 (BitVec.ofNat 8 h) 0#16
  | .stop h => wordOf 10#4 0#2 (BitVec.ofNat 8 h) 0#16
  | .transact sel cmd n => wordOf 11#4 0#2 (BitVec.ofNat 8 n) (sel ++ cmd)
  | .wrbuf k byte => wordOf 12#4 0#2 (BitVec.ofNat 8 k) (0#8 ++ byte)

end Sys2Proof
end

