-- ==== Sys2Proof/Machine/Tick.lean ====
section
/-! DEFINITION. The clock's step `Tick`, a reset cycle, the answer to a reserved word, and which of the three
agents moves next (spec/10_state.md R41 to R43; spec/70_reset_and_hazards.md R300, R302; spec/30_encoding.md R94). -/

namespace Sys2Proof.Machine

/-- The host lets the cycle that ends pass; a request at the head goes on waiting (R41, V-DRV-9). -/
def State.hostAfterCycle (s : State) : List HostAct :=
  match s.host with
  | .pass :: rest => rest
  | .request w :: rest => .request w :: rest
  | [] => []

/-- `cyc <- t + 1`: the next cycle begins, with its own inputs (R42, R36). -/
def State.nextCycle (s : State) : State :=
  { s with cyc := s.cyc + 1, env := s.env.tail, host := s.hostAfterCycle }

/-- (a) of `Tick`: a busy driver samples the bus line (R42). -/
def busSampled (s : State) : State := if s.drv.busy then s.afterSample s.cfg.busPin else s

/-- (b) of `Tick`: a running engine ticks (R42, R174). -/
def engineStage (s : State) : State := if s.eng.run then engineTick s else s

/-- (c) of `Tick`: a busy driver ticks with sample `x` (R42, R221). -/
def driverStage (x : Bool) (s : State) : State := if s.drv.busy then driverTick x s else s

/-- `Tick` (R42): the sample is taken from the state at the start of the step; the engine's and the driver's
writes are disjoint. A response is presented only where the driver ends a transaction in it (R90). -/
def tick (s : State) : State :=
  (driverStage (s.sampleValue s.cfg.busPin) (engineStage (busSampled s).silent)).nextCycle

/-- A `Tick` in which `rst = 1`: every register of SWBUS takes its reset value; `PADREG` is not written; no
response is produced (R300, R302, R45). Time, the inputs and the draw counter go on (log 11). -/
def resetTick (s : State) : State :=
  { State.launch s.cfg s.padreg with cyc := s.cyc, env := s.env, host := s.host, draws := s.draws }.nextCycle

/-- The input `rst` in the current cycle (R300); low past the end of the schedule (log 5). -/
def State.rst (s : State) : Bool :=
  match s.env with
  | c :: _ => c.rst
  | [] => false

/-- The step that is taken next. -/
inductive Move where
  /-- A clock edge with `rst = 1`. -/
  | resetCycle
  /-- A clock edge with `rst = 0`. -/
  | clockCycle
  /-- The request word is accepted (R90: `req_valid and req_ready`). -/
  | accept (w : Word)
  deriving DecidableEq, Repr

/-- Which agent moves next. While `rst = 1` no request is accepted (R300); while `drv.busy = 1` a request waits
(R41); a host with nothing scheduled lets the clock run (log 6). -/
def State.move (s : State) : Move :=
  if s.rst then .resetCycle
  else
    match s.host with
    | .request w :: _ => if s.drv.busy then .clockCycle else .accept w
    | .pass :: _ => .clockCycle
    | [] => .clockCycle

/-- The accepted request leaves the head of the host's schedule. -/
def State.taken (s : State) : State := { s with host := s.host.tail }

/-- A reserved word is answered with status `Refused` and changes no state (R94). -/
def answerReserved (s : State) : Host.Outcome State Fault Refusal := raise .refused s

/-- `s` with request word `w` presented in a cycle in which it is accepted: at the head of the host's schedule,
`rst` low, the driver not busy (log 13). -/
def State.presenting (s : State) (w : Word) : State :=
  { s with
    host := .request w :: s.host
    env := match s.env with
      | c :: rest => { c with rst := false } :: rest
      | [] => []
    drv := if s.drv.busy then { s.drv with busy := false, state := .idle } else s.drv }

end Sys2Proof.Machine
end

