-- ==== Sys2Proof/Machine/Step.lean ====
section
/-! DEFINITION. One step of SWBUS: a host operation or a clock cycle (spec/10_state.md R41 to R43). -/

namespace Sys2Proof.Machine

/-- One step. A configuration that breaks a constraint of R5 has no meaning and stops the machine (U24, log 2).
An accepted word that decodes runs its operation; a reserved word is refused (R93, R94). -/
def step (s : State) : Host.Outcome State Fault Refusal :=
  if Cfg.legal s.cfg then
    match s.move with
    | .resetCycle => .next (resetTick s)
    | .clockCycle => .next (tick s)
    | .accept w =>
      match decode w with
      | some i => exec i s.taken
      | none => answerReserved s.taken
  else .fault .illegalConfiguration

/-- `s` with the table word `w` of `nbits` bits presented on the request port, so that `step` accepts and runs
exactly it. It stands for the host presenting a word: SWBUS loads no program (log 6, log 13). -/
def State.withFetchWord (s : State) (nbits w : Nat) : State :=
  s.presenting (BitVec.ofNat 32 (w % 2 ^ nbits))

end Sys2Proof.Machine
end

