-- ==== Sys2Proof/Machine/Ports.lean ====
section
/-! DEFINITION. The output ports of SWBUS that are functions of the state, and the input `pin_in`
(spec/30_encoding.md R90). The response port is `State.rsp`. -/

namespace Sys2Proof.Machine

/-- `req_ready`: `not drv.busy` (R90). -/
def Ports.reqReady (s : State) : Bool := !s.drv.busy

/-- `rsp_valid`: the last step presented a response word (R90). -/
def Ports.rspValid (s : State) : Bool := s.rsp.isSome

/-- `drv_state`, three bits (R90, R98). -/
def Ports.drvState (s : State) : BitVec 3 := s.drv.state.code

/-- `drv_err`, three bits (R90, R97). -/
def Ports.drvErr (s : State) : BitVec 3 := s.drv.err.code

/-- `pin_oe[p]`: `Drive(p) != HiZ` (R90). -/
def Ports.pinOe (s : State) (p : Nat) : Bool := decide (s.drive p ≠ .hiZ)

/-- `pin_out[p]`: `Drive(p) = High` (R90). -/
def Ports.pinOut (s : State) (p : Nat) : Bool := decide (s.drive p = .high)

/-- `pin_in[p]`: `Line(p)` (R90). -/
def Ports.pinIn (s : State) (p : Nat) : Level := s.line p

/-- `pad_pue[p]`: `PUE(p)` (R90). -/
def Ports.padPue (s : State) (p : Nat) : Bool := s.pue p

/-- `pad_pde[p]`: `PDE(p)` (R90). -/
def Ports.padPde (s : State) (p : Nat) : Bool := s.pde p

end Sys2Proof.Machine
end

