-- ==== Sys2Proof/Machine/Procedure.lean ====
section
/-! DEFINITION. The transaction as the sequential procedure of spec/43_bus_driver.md R219, with the timed
primitives `Hold` and `AwaitLevel` (R206, R207), as data and a one-cycle reading of it. `DriverTick` (R221)
is what the machine runs; this is what R221 is to be equal to, cycle for cycle. -/

namespace Sys2Proof.Machine

/-- One timed primitive of the procedure, with the FSM state it stands in. -/
inductive Seg where
  /-- `Hold(od, n)` (R206). -/
  | hold (st : DrvState) (od : Od) (n : Nat)
  /-- `if not AwaitLevel(level, n) then Fail(err)`, the line held `Released` (R207, R211). -/
  | await (st : DrvState) (level : Bool) (n : Nat) (err : Status)
  deriving DecidableEq, Repr

/-- `SendByte(B)` (R208). -/
def sendByteSegs (c : Cfg) (st : DrvState) (b : Byte) : List Seg :=
  (List.range 8).flatMap fun j => [.hold st (cellOf c b j).1 c.tHalf.toNat, .hold st (cellOf c b j).2 c.tHalf.toNat]

/-- `AckSlot()` (R210). -/
def ackSlotSegs (c : Cfg) (st : DrvState) : List Seg :=
  [.hold st .released c.tAckDelay.toNat, .await st c.ackLevel c.tTimeout.toNat .noAcknowledge,
   .await st (!c.ackLevel) c.tTimeout.toNat .busTimeout]

/-- A byte and its ack slot (R213 to R216). -/
def byteSegs (c : Cfg) (st : DrvState) (b : Byte) : List Seg := sendByteSegs c st b ++ ackSlotSegs c st

/-- `Transaction(sel, cmd, n)` with the data bytes `data` (R219). -/
def transactionSegs (c : Cfg) (sel cmd : Byte) (data : List Byte) : List Seg :=
  [.hold .startCondition .drivenLow c.tStart.toNat, .await .startCondition true c.tTimeout.toNat .busTimeout] ++
  byteSegs c .addressPhase sel ++ byteSegs c .commandPhase cmd ++ data.flatMap (byteSegs c .dataPhase) ++
  byteSegs c .crcPhase (crcOf c (sel :: cmd :: data)) ++ [.hold .standbyPulse .released c.tStandby.toNat]

/-- Where the procedure is: primitives still to run, the first of them in progress, or ended with a status. -/
inductive Proc where
  | running (segs : List Seg)
  | ended (e : Status)
  deriving DecidableEq, Repr

/-- `Hold(s, 0)` takes no cycle (R206); a procedure with nothing left has ended with `Ok` (R218). -/
def Proc.settle : List Seg → Proc
  | [] => .ended .ok
  | .hold st od n :: rest => if n = 0 then Proc.settle rest else .running (.hold st od n :: rest)
  | .await st v n e :: rest => .running (.await st v n e :: rest)

/-- One cycle of the procedure; `x` is the level of the line in that cycle (R206, R207). -/
def Proc.cycle (x : Bool) : Proc → Proc
  | .ended e => .ended e
  | .running [] => .ended .ok
  | .running (.hold st od n :: rest) => Proc.settle (.hold st od (n - 1) :: rest)
  | .running (.await st v n e :: rest) =>
    if x = v then Proc.settle rest
    else if n ≤ 1 then .ended e
    else .running (.await st v (n - 1) e :: rest)

/-- The FSM state and the line state the procedure holds in the current cycle; `none` once it has ended. -/
def Proc.holds : Proc → Option (DrvState × Od)
  | .running (.hold st od _ :: _) => some (st, od)
  | .running (.await st _ _ _ :: _) => some (st, .released)
  | .running [] => none
  | .ended _ => none

/-- The driver's registers show what the procedure holds; once it has ended they show its outcome
(R211, R218): not busy, line released, `Idle` or `Error`, the status in `drv.err`. -/
def showsProc (s : State) (p : Proc) : Prop :=
  match p with
  | .running segs =>
    s.drv.busy = true ∧ Proc.holds (.running segs) = (s.pin s.cfg.busPin).od.map fun o => (s.drv.state, o)
  | .ended e =>
    s.drv.busy = false ∧ (s.pin s.cfg.busPin).od = some .released ∧ s.drv.err = e ∧
      s.drv.state = if e = .ok then .idle else .error

/-- `k` ticks of the machine and `k` cycles of the procedure, fed the same samples of the bus line. -/
def lockstep : Nat → State → Proc → State × Proc
  | 0, s, p => (s, p)
  | k + 1, s, p => lockstep k (tick s) (Proc.cycle (s.sampleValue s.cfg.busPin) p)

/-- `k` ticks. -/
def ticks : Nat → State → State
  | 0, s => s
  | k + 1, s => ticks k (tick s)

end Sys2Proof.Machine
end

