-- ==== Sys2Proof/Safety.lean ====
section
/-! DEFINITION. What a sound state of SWBUS is: the invariants I1 to I4 of spec/10_state.md (R37 to R40) and
what R30, R32, R34 and the configuration say of the registers; what claims count as an unrelated bit, an
operation's frame, and the length of a transaction (spec/43_bus_driver.md R222). -/

namespace Sys2Proof.Machine

/-! ### The invariant -/

/-- The registers exist as the configuration says: legal `Cfg`, one pin for each pad, `N_WORDS` words of
`PAD_W` bits, `TXBUF` in canonical form with every index below `MAX_DATA` (R5, R20, R21, R30). -/
structure ShapeInv (s : State) : Prop where
  legal : Cfg.legal s.cfg = true
  pins : s.pins.length = s.cfg.nPads
  words : s.padreg.length = s.cfg.nWords
  wordWidth : ∀ w ∈ s.padreg, w < 2 ^ s.cfg.padW
  txbufCanonical : Memory.wf s.txbuf = true
  txbufRange : ∀ c ∈ s.txbuf, c.1 < s.cfg.maxData

/-- Invariant I1 at one pin: the closed two-state pin (R37). -/
structure TwoStatePin (q : Pin) : Prop where
  released : q.od = some .released ↔ q.owner = .emulator ∧ q.ovr = true ∧ q.oe = false
  drivenLow : q.od = some .drivenLow ↔ q.owner = .emulator ∧ q.ovr = true ∧ q.oe = true
  notAcquired : q.od = none ↔ q.ovr = false
  notEmulator : q.od = none → q.owner = .nobody ∨ q.owner = .engine

/-- Pin `p` is the pin the engine is running on. -/
def EnginePin (s : State) (p : Nat) : Prop := s.eng.run = true ∧ s.eng.pin.toNat = p

/-- Invariant I2: engine ownership (R38). `owned` is R38's "exactly when" and "at most one", said so that
it is kept by every step: no pin but the running engine's has owner `Engine` (log 14). -/
structure EngineInv (s : State) : Prop where
  owned : ∀ p < s.cfg.nPads, (s.pin p).owner = .engine ↔ EnginePin s p
  configured : s.eng.cfgd = true → s.eng.pin.toNat < s.cfg.nPads ∧ 1 ≤ s.eng.half.toNat
  running : s.eng.run = true → s.eng.cfgd = true ∧ (s.pin s.eng.pin.toNat).oe = true ∧
    (s.pin s.eng.pin.toNat).out = s.eng.lvl ∧ 1 ≤ s.eng.cnt.toNat ∧ s.eng.cnt.toNat ≤ s.eng.half.toNat
  others : ∀ p < s.cfg.nPads, ¬ EnginePin s p →
    (s.pin p).out = false ∧ ((s.pin p).owner = .nobody → (s.pin p).oe = false)

/-- The six states of a running transaction (R33). -/
def DrvState.inTransaction : DrvState → Bool
  | .idle => false
  | .error => false
  | .startCondition => true
  | .addressPhase => true
  | .commandPhase => true
  | .dataPhase => true
  | .crcPhase => true
  | .standbyPulse => true

/-- Invariant I4 and R32, R33: the bus pin of a running transaction, when the driver is busy, and what
`drv.err` holds. -/
structure DriverInv (s : State) : Prop where
  busPin : s.drv.busy = true → (s.pin s.cfg.busPin).od ≠ none ∧ s.cfg.busGrp = 0
  busy : s.drv.busy = s.drv.state.inTransaction
  errInError : s.drv.state = .error → s.drv.err = .noAcknowledge ∨ s.drv.err = .busTimeout
  okElsewhere : s.drv.state ≠ .error → s.drv.err = .ok

/-- The data bytes of the transaction in hand, `TXBUF[0..n-1]` (R34). -/
def dataBytes (s : State) : List Byte :=
  (List.range s.drv.n.toNat).map fun k => (Memory.read s.txbuf k).getD 0

/-- The bytes the CRC covers, in the order sent: `sel`, `cmd`, the data bytes (R105). -/
def crcBytes (s : State) : List Byte := s.drv.sel :: s.drv.cmd :: dataBytes s

/-- How many bytes of the frame are out: byte `drv.byte` is out once all its eight bits are (R34). -/
def bytesOut (s : State) : Nat := s.drv.byte.toNat + if s.drv.bit = 8#4 then 1 else 0

/-- The driver holds `o` on the bus pin. -/
def Holds (s : State) (o : Od) : Prop := (s.pin s.cfg.busPin).od = some o

/-- Where a running transaction can stand in each step: the FSM state, the line state held, the ranges of the
position registers (R34, R221). -/
def PositionOf (s : State) : DrvStep → Prop
  | .startLow => s.drv.state = .startCondition ∧ Holds s .drivenLow ∧ s.drv.byte = 0#9 ∧ s.drv.bit = 0#4 ∧
      s.drv.cnt ≤ s.cfg.tStart
  | .startRise => s.drv.state = .startCondition ∧ Holds s .released ∧ s.drv.byte = 0#9 ∧ s.drv.bit = 0#4 ∧
      s.drv.cnt ≤ s.cfg.tTimeout
  | .bitFirst => s.drv.state = phaseOf s.drv.n.toNat s.drv.byte.toNat ∧ s.drv.bit < 8#4 ∧
      Holds s (curCell s s.drv.bit.toNat).1 ∧ s.drv.cnt ≤ s.cfg.tHalf
  | .bitSecond => s.drv.state = phaseOf s.drv.n.toNat s.drv.byte.toNat ∧ s.drv.bit < 8#4 ∧
      Holds s (curCell s s.drv.bit.toNat).2 ∧ s.drv.cnt ≤ s.cfg.tHalf
  | .ackDelay => s.drv.state = phaseOf s.drv.n.toNat s.drv.byte.toNat ∧ s.drv.bit = 8#4 ∧ Holds s .released ∧
      s.drv.cnt ≤ s.cfg.tAckDelay
  | .ackWait => s.drv.state = phaseOf s.drv.n.toNat s.drv.byte.toNat ∧ s.drv.bit = 8#4 ∧ Holds s .released ∧
      s.drv.cnt ≤ s.cfg.tTimeout
  | .ackRise => s.drv.state = phaseOf s.drv.n.toNat s.drv.byte.toNat ∧ s.drv.bit = 8#4 ∧ Holds s .released ∧
      s.drv.cnt ≤ s.cfg.tTimeout
  | .standby => s.drv.state = .standbyPulse ∧ s.drv.byte.toNat = s.drv.n.toNat + 2 ∧ s.drv.bit = 8#4 ∧
      Holds s .released ∧ s.drv.cnt ≤ s.cfg.tStandby

/-- What the position registers of a running transaction hold (R34, R221): the data bytes are there, the byte
in hand is one of the frame, a cycle is left in the step, and `drv.crc` is the CRC accumulator over the
bytes sent so far. -/
structure PositionInv (s : State) : Prop where
  count : s.drv.n.toNat ≤ s.cfg.maxData
  written : ∀ k < s.drv.n.toNat, (Memory.read s.txbuf k).isSome = true
  byteRange : s.drv.byte.toNat ≤ s.drv.n.toNat + 2
  counting : s.drv.cnt ≠ 0#32
  crc : s.drv.crc = crcRun s.cfg ((crcBytes s).take (bytesOut s))
  position : PositionOf s s.drv.step

/-- The invariant of SWBUS: I1, I2, I4 (I3 follows, R39), the shape of the registers, and the position
registers while a transaction runs. -/
structure Inv (s : State) : Prop where
  shape : ShapeInv s
  pins : ∀ p < s.cfg.nPads, TwoStatePin (s.pin p)
  engine : EngineInv s
  driver : DriverInv s
  position : s.drv.busy = true → PositionInv s

/-! ### Words that claims use -/

/-- Bit `b` of pad word `a` is the pull-up or pull-down enable of some pad; every other bit is unrelated (R23). -/
def EnableBit (c : Cfg) (a b : Nat) : Prop := (a, b) ∈ Cfg.bitPositions c

/-- Pad words of a legal launch state: `N_WORDS` of them, each `PAD_W` bits (R45, U4). -/
def LegalPadWords (c : Cfg) (words : List Nat) : Prop :=
  words.length = c.nWords ∧ ∀ w ∈ words, w < 2 ^ c.padW

/-- The `ST` field of a response word (R96). -/
def responseStatus (r : Word) : BitVec 4 := r.extractLsb' 28 4

/-- A transaction as it stands when `transact sel, cmd, n` has just been accepted (R204). -/
structure JustStarted (s : State) (sel cmd : Byte) : Prop where
  busy : s.drv.busy = true
  state : s.drv.state = .startCondition
  step : s.drv.step = .startLow
  cnt : s.drv.cnt = s.cfg.tStart
  sel : s.drv.sel = sel
  cmd : s.drv.cmd = cmd

/-- The longest a transaction with `n` data bytes can take, in ticks (R222). -/
def longestTransaction (c : Cfg) (n : Nat) : Nat :=
  c.tStart.toNat + c.tTimeout.toNat +
    (n + 3) * (16 * c.tHalf.toNat + c.tAckDelay.toNat + 2 * c.tTimeout.toNat) + c.tStandby.toNat

/-- The shortest a successful transaction with `n` data bytes can take, in ticks (R222). -/
def shortestTransaction (c : Cfg) (n : Nat) : Nat :=
  c.tStart.toNat + 1 + (n + 3) * (16 * c.tHalf.toNat + c.tAckDelay.toNat + 2) + c.tStandby.toNat

/-- The byte whose cells a record of line states shows (R225): cell `j` is cut out of the record at the first
cycle of each of its halves, and its bit is 1 when they are `CELL_CODE(1)`; cell `j` carries bit `7 - j`. -/
def decodeCells (c : Cfg) (record : Nat → Option Od) : Byte :=
  BitVec.ofFnLE fun i : Fin 8 =>
    decide ((record (2 * (7 - i.val) * c.tHalf.toNat), record ((2 * (7 - i.val) + 1) * c.tHalf.toNat)) =
      (some c.cell1.1, some c.cell1.2))

/-- What the driver holds on the bus pin (R27). -/
def busOd (s : State) : Option Od := (s.pin s.cfg.busPin).od

/-- The pad's pulls make a released line float high: pull-up enabled, pull-down not (R303, R307). -/
def PulledUp (s : State) (p : Nat) : Prop := s.pue p = true ∧ s.pde p = false

/-- Whether the scheduled environment holds pin `p` low in the `k`-th cycle from now; `none` past its end (R36). -/
def lowAt (s : State) (p k : Nat) : Option Bool := (s.env[k]?).map fun c => c.low.contains p

/-- Cycle `k` of a transaction with `n` data bytes is the one in which a prompt device acknowledges a byte: the
first sample of an ack slot, when every earlier wait took one sample (R222). -/
def PromptAck (c : Cfg) (n k : Nat) : Prop :=
  ∃ j < n + 3, k = c.tStart.toNat + 1 + j * (16 * c.tHalf.toNat + c.tAckDelay.toNat + 2) +
    16 * c.tHalf.toNat + c.tAckDelay.toNat

/-- The statuses an operation can be answered with in its own step (R280): the table's row without the two
protocol errors of `transact`, which come in a tick. -/
def opStatuses : Instr → List Status
  | .getPullUp _ _ => [.ok, .unsupportedPad]
  | .setPullUp _ _ _ => [.ok, .unsupportedPad]
  | .getPullDown _ _ => [.ok, .unsupportedPad]
  | .setPullDown _ _ _ => [.ok, .unsupportedPad]
  | .acquire _ _ => [.ok, .pinConfigurationFailed, .pinAlreadyOwned, .refused]
  | .release _ => [.ok, .refused]
  | .driveLow _ => [.ok, .refused]
  | .read _ => [.ok, .refused]
  | .configure _ _ => [.ok, .refused]
  | .start _ => [.ok, .pinAlreadyOwned, .refused]
  | .stop _ => [.ok, .refused]
  | .transact _ _ _ => [.pinConfigurationFailed, .pinAlreadyOwned, .refused]
  | .wrbuf _ _ => [.ok, .refused]

/-- The statuses a transaction's last tick can answer the `transact` with (R280). -/
def tickStatuses : List Status := [.ok, .noAcknowledge, .busTimeout]

/-- The nine ASCII digits `"123456789"`, the usual check string of a CRC (R209, V-CRC-1). -/
def checkDigits : List Byte := [0x31#8, 0x32#8, 0x33#8, 0x34#8, 0x35#8, 0x36#8, 0x37#8, 0x38#8, 0x39#8]

/-- The host's next move is a `transact` that passes stages 1 and 2 (R202, R203): at most `MAX_DATA` data bytes,
all written; the bus pad supported; the bus pin not the engine's. -/
def TransactPasses (s : State) : Prop :=
  ∃ w sel cmd n, s.move = .accept w ∧ decode w = some (.transact sel cmd n) ∧ n ≤ s.cfg.maxData ∧
    (∀ k < n, Memory.read s.txbuf k ≠ none) ∧ s.cfg.busGrp = 0 ∧ s.cfg.busPin < s.cfg.nPads ∧
    (s.pin s.cfg.busPin).owner ≠ .engine

/-- This tick's sample ends the ack slot with `Ok`: acknowledged before, and now let go (R210). -/
def AckSlotOk (s : State) : Prop := s.drv.step = .ackRise ∧ s.sampleValue s.cfg.busPin ≠ s.cfg.ackLevel

/-- This tick's sample is the last of its window and fails it: no acknowledge, or no release after one (R210). -/
def AckSlotFails (s : State) (e : Status) : Prop :=
  s.drv.cnt = 1#32 ∧
    ((s.drv.step = .ackWait ∧ s.sampleValue s.cfg.busPin ≠ s.cfg.ackLevel ∧ e = .noAcknowledge) ∨
     (s.drv.step = .ackRise ∧ s.sampleValue s.cfg.busPin = s.cfg.ackLevel ∧ e = .busTimeout))

/-- The rows of R220 that change `drv.state`, each with its condition in `s` and its further effect in the next
state `t`. The counts of samples and cycles are in `drv.cnt`, which is 1 in the last of them. -/
def ListedTransition (s t : State) : Prop :=
  match s.drv.state, t.drv.state with
  | .idle, .startCondition => TransactPasses s ∧ t.drv.err = .ok ∧ Holds t .drivenLow
  | .error, .startCondition => TransactPasses s ∧ t.drv.err = .ok ∧ Holds t .drivenLow
  | .startCondition, .addressPhase => s.drv.step = .startRise ∧ s.sampleValue s.cfg.busPin = true
  | .startCondition, .error => s.drv.step = .startRise ∧ s.sampleValue s.cfg.busPin = false ∧ s.drv.cnt = 1#32 ∧
      t.drv.err = .busTimeout
  | .addressPhase, .commandPhase => AckSlotOk s
  | .commandPhase, .dataPhase => AckSlotOk s ∧ 0 < s.drv.n.toNat
  | .commandPhase, .crcPhase => AckSlotOk s ∧ s.drv.n.toNat = 0
  | .dataPhase, .crcPhase => AckSlotOk s ∧ s.drv.byte.toNat = s.drv.n.toNat + 1
  | .crcPhase, .standbyPulse => AckSlotOk s ∧ s.cfg.tStandby ≠ 0#32
  | .crcPhase, .idle => AckSlotOk s ∧ s.cfg.tStandby = 0#32 ∧ t.rsp = some 0x00000000#32
  | .standbyPulse, .idle => s.drv.step = .standby ∧ s.drv.cnt = 1#32 ∧ t.rsp = some 0x00000000#32
  | .addressPhase, .error => AckSlotFails s t.drv.err
  | .commandPhase, .error => AckSlotFails s t.drv.err
  | .dataPhase, .error => AckSlotFails s t.drv.err
  | .crcPhase, .error => AckSlotFails s t.drv.err
  | _, _ => False

end Sys2Proof.Machine
end

