-- ==== Sys2Proof/Certificates/Slice0/Obligations.lean ====
section
/-! DEFINITION. The statements about SWBUS for the provers. Each docstring says which rule of spec/ it
formalises. In each, `t = { s with f := t.f, … }` says that every field of the state but those named is as
before, and `{ s with … }` as a next state says the same with the new values written out. -/

open Sys2Proof Sys2Proof.Machine

/-! ### The request word -/

/-- R95, R93: every operation a request word can carry, with every operand at every value of its field, is
decoded from its own word. -/
def Obligations.DecodeOfEncode : Prop :=
  ∀ i : Instr, WellFormed i → decode (encode i) = some i

/-- R93, R95: a word that decodes carries exactly the operands it decodes to, and nothing else: encoding them
gives the word back. -/
def Obligations.EncodeOfDecode : Prop :=
  ∀ (w : Word) (i : Instr), decode w = some i → WellFormed i ∧ encode i = w

/-- R93: at most one row of R92 matches a word; a word that matches a row is that row's operation with the
operands read from its fields; a word that matches no row is reserved (`none`). -/
def Obligations.DecodeSelectsTheRow : Prop :=
  (∀ (w : Word) (m n : Nat) (r q : Row), rows[m]? = some r → rows[n]? = some q →
    w &&& r.mask = r.pat → w &&& q.mask = q.pat → m = n) ∧
  (∀ (w : Word) (r : Row), r ∈ rows → w &&& r.mask = r.pat → decode w = some (r.build w)) ∧
  (∀ w : Word, (∀ r ∈ rows, w &&& r.mask ≠ r.pat) → decode w = none)

/-- The worked words of R95 and of the vectors V-DEC decode as they are written there. -/
def Obligations.RequestWordsDecodeAsWritten : Prop :=
  decode 0x10020001#32 = some (.setPullUp 0 2 true) ∧ decode 0x40020000#32 = some (.acquire 0 2) ∧
  decode 0x800A03E8#32 = some (.configure 10 1000) ∧ decode 0x90000000#32 = some (.start 0) ∧
  decode 0xB000A103#32 = some (.transact 0xA1#8 0x03#8 0) ∧ decode 0xC001005A#32 = some (.wrbuf 1 0x5A#8) ∧
  decode 0x04000000#32 = some (.getPullUp 1 0) ∧ decode 0xD0000000#32 = none ∧ decode 0x54020000#32 = none

/-- R94: a request word that matches no row is answered with status `Refused` and changes no state. -/
def Obligations.ReservedWordIsRefused : Prop :=
  ∀ (s : State) (w : Word) (rest : List HostAct), Cfg.legal s.cfg = true → s.rst = false → s.drv.busy = false →
    s.host = .request w :: rest → (∀ r ∈ rows, w &&& r.mask ≠ r.pat) →
    step s = .next { s with host := rest, rsp := some 0x70000000#32 }

/-! ### The step -/

/-- R41: when the word the host presents decodes to `i`, and the driver is not busy and `rst` is low, the step is
`exec i` at the state from whose host schedule that request has been taken. -/
def Obligations.StepRunsTheDecodedOperation : Prop :=
  ∀ (s : State) (w : Word) (i : Instr) (rest : List HostAct), Cfg.legal s.cfg = true → s.rst = false →
    s.drv.busy = false → s.host = .request w :: rest → decode w = some i →
    step s = exec i { s with host := rest }

/-- Log 13: a word put on the request port by `withFetchWord` is the one the very next step accepts and runs, at
a state with the driver not busy and everything but the schedule, `rst` and the driver's busy state as before. -/
def Obligations.PresentedWordRunsNext : Prop :=
  ∀ (s : State) (w : Nat) (i : Instr), Cfg.legal s.cfg = true → w < 2 ^ 32 → decode (BitVec.ofNat 32 w) = some i →
    ∃ s', step (s.withFetchWord 32 w) = exec i s' ∧ s'.drv.busy = false ∧
      s' = { s with env := s'.env, drv := s'.drv } ∧ (∀ p, s'.ext p = s.ext p) ∧ s'.env.tail = s.env.tail ∧
      (s.rst = false → s'.env = s.env) ∧ (s.drv.busy = false → s'.drv = s.drv) ∧
      s'.drv = { s.drv with busy := s'.drv.busy, state := s'.drv.state }

/-- R205: while `drv.busy = 1` no operation is accepted; with `rst` low the only step is `Tick`; a request that
waits goes on waiting; the engine, if running, keeps running. -/
def Obligations.BusyStepIsATick : Prop :=
  ∀ s : State, Cfg.legal s.cfg = true → s.rst = false → s.drv.busy = true →
    step s = .next (tick s) ∧ (tick s).eng.run = s.eng.run ∧
    ∀ (w : Word) (rest : List HostAct), s.host = .request w :: rest → (tick s).host = .request w :: rest

/-- R5, U24, R43: with a legal configuration every step answers a next state (nothing is stuck); a configuration
that breaks a constraint has no meaning and stops the machine (log 2). -/
def Obligations.StepAnswersUnderALegalConfiguration : Prop :=
  (∀ s : State, Cfg.legal s.cfg = true → ∃ t, step s = .next t) ∧
  (∀ s : State, Cfg.legal s.cfg = false → step s = .fault .illegalConfiguration)

/-! ### Pad Pull Controller -/

/-- R131: `get_pull_up` answers the pull-up bit of a supported pad and changes nothing; for any other pad it
answers `UnsupportedPad` and changes nothing. -/
def Obligations.GetPullUpAnswersTheBit : Prop :=
  ∀ (g i : Nat) (s : State),
    (¬ (g = 0 ∧ i < s.cfg.nPads) → exec (.getPullUp g i) s = .next { s with rsp := some 0x10000000#32 }) ∧
    (g = 0 ∧ i < s.cfg.nPads → exec (.getPullUp g i) s = .next { s with
      rsp := some (if (s.memRead (padWordOf s.cfg i)).testBit (pueBitOf s.cfg i) then 0x00000001#32 else 0x00000000#32) })

/-- R133: `get_pull_down` answers the pull-down bit, as R131. -/
def Obligations.GetPullDownAnswersTheBit : Prop :=
  ∀ (g i : Nat) (s : State),
    (¬ (g = 0 ∧ i < s.cfg.nPads) → exec (.getPullDown g i) s = .next { s with rsp := some 0x10000000#32 }) ∧
    (g = 0 ∧ i < s.cfg.nPads → exec (.getPullDown g i) s = .next { s with
      rsp := some (if (s.memRead (padWordOf s.cfg i)).testBit (pdeBitOf s.cfg i) then 0x00000001#32 else 0x00000000#32) })

/-- R132: `set_pull_up` writes the pull-up bit of a supported pad, no other bit of any word and no other
register; for any other pad it answers `UnsupportedPad` and writes nothing. -/
def Obligations.SetPullUpWritesOneBit : Prop :=
  ∀ (g i : Nat) (enabled : Bool) (s : State), ShapeInv s →
    (¬ (g = 0 ∧ i < s.cfg.nPads) →
      exec (.setPullUp g i enabled) s = .next { s with rsp := some 0x10000000#32 }) ∧
    (g = 0 ∧ i < s.cfg.nPads →
      ∃ t, exec (.setPullUp g i enabled) s = .next t ∧ t = { s with padreg := t.padreg, rsp := some 0x00000000#32 } ∧
        ∀ a b, t.padBit a b =
          if a = padWordOf s.cfg i ∧ b = pueBitOf s.cfg i then enabled else s.padBit a b)

/-- R134: `set_pull_down` writes the pull-down bit, as R132. -/
def Obligations.SetPullDownWritesOneBit : Prop :=
  ∀ (g i : Nat) (enabled : Bool) (s : State), ShapeInv s →
    (¬ (g = 0 ∧ i < s.cfg.nPads) →
      exec (.setPullDown g i enabled) s = .next { s with rsp := some 0x10000000#32 }) ∧
    (g = 0 ∧ i < s.cfg.nPads →
      ∃ t, exec (.setPullDown g i enabled) s = .next t ∧ t = { s with padreg := t.padreg, rsp := some 0x00000000#32 } ∧
        ∀ a b, t.padBit a b =
          if a = padWordOf s.cfg i ∧ b = pdeBitOf s.cfg i then enabled else s.padBit a b)

/-- R64, the laws: after `SetBit(a, b)` bit `b` of `PADREG[a]` is 1 and every other bit of every word is
unchanged; after `ClrBit(a, b)` it is 0 and every other bit is unchanged; both are idempotent; neither writes
another register. -/
def Obligations.SetAndClearBitLaws : Prop :=
  ∀ (s : State) (a b : Nat), ShapeInv s → a < s.cfg.nWords → b < s.cfg.padW →
    (∀ c j, (s.setBit a b).padBit c j = if c = a ∧ j = b then true else s.padBit c j) ∧
    (∀ c j, (s.clrBit a b).padBit c j = if c = a ∧ j = b then false else s.padBit c j) ∧
    (s.setBit a b).setBit a b = s.setBit a b ∧ (s.clrBit a b).clrBit a b = s.clrBit a b ∧
    s.setBit a b = { s with padreg := (s.setBit a b).padreg } ∧
    s.clrBit a b = { s with padreg := (s.clrBit a b).padreg }

/-- R135: setting a pull and reading it back gives what was set, whatever it was; every other pull of every pad
is as before. -/
def Obligations.PullBitsAreIndependent : Prop :=
  ∀ (i : Nat) (enabled : Bool) (s : State), ShapeInv s → i < s.cfg.nPads →
    (∃ t, exec (.setPullUp 0 i enabled) s = .next t ∧
      exec (.getPullUp 0 i) t = .next { t with rsp := some (if enabled then 0x00000001#32 else 0x00000000#32) } ∧
      (∀ j < s.cfg.nPads, t.pde j = s.pde j ∧ (j ≠ i → t.pue j = s.pue j))) ∧
    (∃ t, exec (.setPullDown 0 i enabled) s = .next t ∧
      exec (.getPullDown 0 i) t = .next { t with rsp := some (if enabled then 0x00000001#32 else 0x00000000#32) } ∧
      (∀ j < s.cfg.nPads, t.pue j = s.pue j ∧ (j ≠ i → t.pde j = s.pde j)))

/-- R136: the four pad operations do the same whatever the pin and engine registers are: they read and write
none of them, and are refused on account of none. -/
def Obligations.PadOperationsIgnoreOwnership : Prop :=
  ∀ (i : Instr) (s t : State) (pins : List Pin) (eng : Engine),
    (∃ g k, i = .getPullUp g k ∨ i = .getPullDown g k ∨ ∃ e, i = .setPullUp g k e ∨ i = .setPullDown g k e) →
    exec i s = .next t →
    exec i { s with pins := pins, eng := eng } = .next { t with pins := pins, eng := eng } ∧
    t.pins = s.pins ∧ t.eng = s.eng

/-! ### Open-Drain Pin Emulator -/

/-- R150: `acquire` answers, in this order, `PinConfigurationFailed` for an unsupported pad, `PinAlreadyOwned` for
the engine's pin, `Refused` for a pin already acquired, each with nothing written; otherwise it enables the
pull-up, applies the override and claims the pin, `Released`, and writes nothing else. -/
def Obligations.AcquireClaimsThePin : Prop :=
  ∀ (g p : Nat) (s : State), ShapeInv s →
    (¬ (g = 0 ∧ p < s.cfg.nPads) → exec (.acquire g p) s = .next { s with rsp := some 0x20000000#32 }) ∧
    (g = 0 ∧ p < s.cfg.nPads → (s.pin p).owner = .engine →
      exec (.acquire g p) s = .next { s with rsp := some 0x30000000#32 }) ∧
    (g = 0 ∧ p < s.cfg.nPads → (s.pin p).owner = .emulator →
      exec (.acquire g p) s = .next { s with rsp := some 0x70000000#32 }) ∧
    (g = 0 ∧ p < s.cfg.nPads → (s.pin p).owner = .nobody →
      ∃ t, exec (.acquire g p) s = .next t ∧
        t = { s with padreg := t.padreg, pins := t.pins, rsp := some 0x00000000#32 } ∧
        t.pin p = { ovr := true, oe := false, out := false, owner := .emulator, od := some .released } ∧
        (∀ q, q ≠ p → t.pin q = s.pin q) ∧
        ∀ a b, t.padBit a b = if a = padWordOf s.cfg p ∧ b = pueBitOf s.cfg p then true else s.padBit a b)

/-- R151: `release` disables the output driver of an acquired pin and writes `oe[p]` and `od[p]` only, and the line
of a pulled-up pin then floats high unless another participant holds it low; on a pin that is not acquired it is
refused and changes nothing. -/
def Obligations.ReleaseDisablesTheOutput : Prop :=
  ∀ (p : Nat) (s : State),
    (s.cfg.nPads ≤ p ∨ (s.pin p).od = none → exec (.release p) s = .next { s with rsp := some 0x70000000#32 }) ∧
    (p < s.cfg.nPads ∧ (s.pin p).od ≠ none →
      ∃ t, exec (.release p) s = .next t ∧ t = { s with pins := t.pins, rsp := some 0x00000000#32 } ∧
        t.pin p = { s.pin p with oe := false, od := some .released } ∧ (∀ q, q ≠ p → t.pin q = s.pin q) ∧
        (s.ext p = true → t.line p = .low) ∧ (s.ext p = false → PulledUp s p → t.line p = .high))

/-- R152: `drive_low` enables the output driver of an acquired pin and writes `oe[p]` and `od[p]` only, and under
the override the line is then low whatever else; on a pin that is not acquired it is refused. -/
def Obligations.DriveLowSinksTheLine : Prop :=
  ∀ (p : Nat) (s : State),
    (s.cfg.nPads ≤ p ∨ (s.pin p).od = none → exec (.driveLow p) s = .next { s with rsp := some 0x70000000#32 }) ∧
    (p < s.cfg.nPads ∧ (s.pin p).od ≠ none →
      ∃ t, exec (.driveLow p) s = .next t ∧ t = { s with pins := t.pins, rsp := some 0x00000000#32 } ∧
        t.pin p = { s.pin p with oe := true, od := some .drivenLow } ∧ (∀ q, q ≠ p → t.pin q = s.pin q) ∧
        ((s.pin p).ovr = true → t.line p = .low))

/-- R153: `read` of a `Released` pin answers whether its line is high in the current cycle and changes no
register (the count of free draws may advance, log 7; where the line is `unspecified` the answer is some
boolean and nothing is said of it); of any other pin it is refused. -/
def Obligations.ReadAnswersTheLine : Prop :=
  ∀ (p : Nat) (s : State),
    (¬ (p < s.cfg.nPads ∧ (s.pin p).od = some .released) →
      exec (.read p) s = .next { s with rsp := some 0x70000000#32 }) ∧
    (p < s.cfg.nPads ∧ (s.pin p).od = some .released →
      ∃ (v : Bool) (d : Nat), exec (.read p) s =
          .next { s with draws := d, rsp := some (if v then 0x00000001#32 else 0x00000000#32) } ∧
        (s.line p = .high → v = true ∧ d = s.draws) ∧ (s.line p = .low → v = false ∧ d = s.draws))

/-- R155: an acquired pin keeps `owner = Emulator` and `ovr = 1` through every step but a reset, and the engine
cannot be started on it. -/
def Obligations.AcquiredPinStaysAcquired : Prop :=
  ∀ (s t : State) (p : Nat), Inv s → p < s.cfg.nPads → (s.pin p).owner = .emulator → (s.pin p).ovr = true →
    (s.rst = false → step s = .next t → (t.pin p).owner = .emulator ∧ (t.pin p).ovr = true) ∧
    (s.eng.cfgd = true → s.eng.run = false → s.eng.pin.toNat = p →
      exec (.start 0) s = .next { s with rsp := some 0x30000000#32 })

/-- R39 (invariant I3, the inversion contract): an acquired pin whose output is enabled drives low and its line
is low, whatever `ext`, the pulls and `out` are. -/
def Obligations.EnabledOutputOfAnAcquiredPinIsLow : Prop :=
  ∀ (s : State) (p : Nat), Inv s → p < s.cfg.nPads → (s.pin p).od ≠ none → (s.pin p).oe = true →
    s.drive p = .low ∧ s.line p = .low

/-- R66: `High` can occur only on the pin the engine is running on, which is not acquired. -/
def Obligations.OnlyTheEngineDrivesHigh : Prop :=
  ∀ (s : State) (p : Nat), Inv s → p < s.cfg.nPads → s.drive p = .high →
    EnginePin s p ∧ (s.pin p).od = none ∧ s.eng.lvl = true

/-- R67: the level of a line, case by case. -/
def Obligations.LineResolvesAsListed : Prop :=
  ∀ (s : State) (p : Nat),
    (s.drive p = .high ∧ s.ext p = true → s.line p = .unspecified) ∧
    (s.drive p = .low ∨ (s.ext p = true ∧ s.drive p ≠ .high) → s.line p = .low) ∧
    (s.drive p = .high ∧ s.ext p = false → s.line p = .high) ∧
    (s.drive p = .hiZ ∧ s.ext p = false ∧ s.pue p = true ∧ s.pde p = false → s.line p = .high) ∧
    (s.drive p = .hiZ ∧ s.ext p = false ∧ s.pue p = false ∧ s.pde p = true → s.line p = .low) ∧
    (s.drive p = .hiZ ∧ s.ext p = false ∧ s.pue p = s.pde p → s.line p = .unspecified)

/-! ### Bit Timing Engine -/

/-- R171: `configure` is refused, with nothing written, while the engine runs, for a pin that does not exist and
for a half-period of 0; otherwise it loads the configuration, writes nothing else, and answers handle 0. -/
def Obligations.ConfigureLoadsTheEngine : Prop :=
  ∀ (p half : Nat) (s : State), WellFormed (.configure p half) →
    (s.eng.run = true ∨ s.cfg.nPads ≤ p ∨ half = 0 →
      exec (.configure p half) s = .next { s with rsp := some 0x70000000#32 }) ∧
    (s.eng.run = false ∧ p < s.cfg.nPads ∧ half ≠ 0 →
      ∃ e, exec (.configure p half) s = .next { s with eng := e, rsp := some 0x00000000#32 } ∧
        e = { s.eng with cfgd := true, pin := e.pin, half := e.half } ∧ e.pin.toNat = p ∧ e.half.toNat = half)

/-- R172: `start` is refused for a bad handle, an unconfigured and a running engine, and answers
`PinAlreadyOwned` for an acquired pin, each with nothing written; otherwise it puts the pin under the engine with a
full half-period to go and writes nothing else; the pin, not overridden since it is not acquired, is driven high
from this very cycle on, and its line has no specified level where another participant pulls it low. -/
def Obligations.StartBeginsTheWaveform : Prop :=
  ∀ (h : Nat) (s : State), ShapeInv s → EngineInv s →
    (h ≠ 0 ∨ s.eng.cfgd = false ∨ s.eng.run = true →
      exec (.start h) s = .next { s with rsp := some 0x70000000#32 }) ∧
    (h = 0 ∧ s.eng.cfgd = true ∧ s.eng.run = false → (s.pin s.eng.pin.toNat).owner = .emulator →
      exec (.start h) s = .next { s with rsp := some 0x30000000#32 }) ∧
    (h = 0 ∧ s.eng.cfgd = true ∧ s.eng.run = false → (s.pin s.eng.pin.toNat).owner ≠ .emulator →
      ∃ t, exec (.start h) s = .next t ∧
        t = { s with pins := t.pins, rsp := some 0x00000000#32,
                     eng := { s.eng with run := true, lvl := true, cnt := s.eng.half } } ∧
        t.pin s.eng.pin.toNat = { s.pin s.eng.pin.toNat with owner := .engine, oe := true, out := true } ∧
        ((s.pin s.eng.pin.toNat).ovr = false → t.drive s.eng.pin.toNat = .high ∧
          (s.ext s.eng.pin.toNat = false → t.line s.eng.pin.toNat = .high) ∧
          (s.ext s.eng.pin.toNat = true → t.line s.eng.pin.toNat = .unspecified)) ∧
        ∀ q, q ≠ s.eng.pin.toNat → t.pin q = s.pin q)

/-- R173: `stop` is refused for a bad handle; on a stopped engine it answers `Ok` and changes nothing; on a
running one it takes effect at once: the pin undriven and unowned, `run`, `lvl` and `cnt` 0, the configuration
kept, nothing else written. -/
def Obligations.StopLeavesThePinUndriven : Prop :=
  ∀ (h : Nat) (s : State), ShapeInv s → EngineInv s →
    (h ≠ 0 → exec (.stop h) s = .next { s with rsp := some 0x70000000#32 }) ∧
    (h = 0 → s.eng.run = false → exec (.stop h) s = .next { s with rsp := some 0x00000000#32 }) ∧
    (h = 0 → s.eng.run = true →
      ∃ t, exec (.stop h) s = .next t ∧
        t = { s with pins := t.pins, rsp := some 0x00000000#32,
                     eng := { s.eng with run := false, lvl := false, cnt := 0#16 } } ∧
        t.pin s.eng.pin.toNat = { s.pin s.eng.pin.toNat with owner := .nobody, oe := false, out := false } ∧
        t.drive s.eng.pin.toNat = .hiZ ∧ ∀ q, q ≠ s.eng.pin.toNat → t.pin q = s.pin q)

/-- R174: in every tick that begins with the engine running, the last cycle of a half-period toggles the level
and reloads the count, any other cycle counts down; nothing of the engine's pin changes but `out`, which takes the
new level; no other pin's `out` and no register of a stopped engine changes. -/
def Obligations.EngineTickTogglesAtTheHalfPeriod : Prop :=
  ∀ s : State, Inv s →
    (s.eng.run = true → s.eng.cnt = 1#16 →
      (tick s).eng = { s.eng with lvl := !s.eng.lvl, cnt := s.eng.half } ∧
      (tick s).pin s.eng.pin.toNat = { s.pin s.eng.pin.toNat with out := !s.eng.lvl }) ∧
    (s.eng.run = true → s.eng.cnt ≠ 1#16 →
      (tick s).eng = { s.eng with cnt := s.eng.cnt - 1#16 } ∧
      (tick s).pin s.eng.pin.toNat = s.pin s.eng.pin.toNat) ∧
    (s.eng.run = false → (tick s).eng = s.eng) ∧
    ∀ q, ¬ EnginePin s q → ((tick s).pin q).out = (s.pin q).out

/-- R175, the closed form of the waveform: `k` ticks after an accepted `start`, the level is 1, and the pin driven
high, when `k / H` is even, and 0 and driven low when it is odd; the count is `H - k mod H`. -/
def Obligations.SquareWaveClosedForm : Prop :=
  ∀ (s s0 : State) (k : Nat), Inv s → s.eng.run = false → exec (.start 0) s = .next s0 → s0.eng.run = true →
    (ticks k s0).eng.run = true ∧
    (ticks k s0).eng.lvl = decide (k / s.eng.half.toNat % 2 = 0) ∧
    ((ticks k s0).pin s.eng.pin.toNat).out = decide (k / s.eng.half.toNat % 2 = 0) ∧
    (ticks k s0).drive s.eng.pin.toNat = (if k / s.eng.half.toNat % 2 = 0 then .high else .low) ∧
    (ticks k s0).eng.cnt.toNat = s.eng.half.toNat - k % s.eng.half.toNat

/-- R175, S6: two observations of the running engine's pin exactly one half-period apart differ, from wherever in
the waveform the first is taken: in `out`, in what the pad drives, and, where no other participant pulls the line
low in either cycle, in the level of the line, which is specified in both. -/
def Obligations.SamplesHalfAPeriodApartDiffer : Prop :=
  ∀ s : State, Inv s → s.eng.run = true →
    ((ticks s.eng.half.toNat s).pin s.eng.pin.toNat).out ≠ (s.pin s.eng.pin.toNat).out ∧
    (ticks s.eng.half.toNat s).drive s.eng.pin.toNat ≠ s.drive s.eng.pin.toNat ∧
    (s.ext s.eng.pin.toNat = false → (ticks s.eng.half.toNat s).ext s.eng.pin.toNat = false →
      (ticks s.eng.half.toNat s).line s.eng.pin.toNat ≠ s.line s.eng.pin.toNat ∧
      s.line s.eng.pin.toNat ≠ .unspecified ∧ (ticks s.eng.half.toNat s).line s.eng.pin.toNat ≠ .unspecified)

/-- R176, R75: no operation but `stop 0` disturbs a running engine: its registers and its pin's registers are as
before, whatever the host issues. -/
def Obligations.OperationsLeaveTheEngineAlone : Prop :=
  ∀ (i : Instr) (s t : State), Inv s → s.eng.run = true → i ≠ .stop 0 → exec i s = .next t →
    t.eng = s.eng ∧ t.pin s.eng.pin.toNat = s.pin s.eng.pin.toNat

/-! ### Single-Wire Bus Driver: operations -/

/-- R201: `wrbuf` writes `TXBUF[k]` and no other entry or register, and keeps the store's canonical form; an index
outside the buffer is refused with nothing written. -/
def Obligations.WrbufWritesOneEntry : Prop :=
  ∀ (k : Nat) (byte : Byte) (s : State),
    (s.cfg.maxData ≤ k → exec (.wrbuf k byte) s = .next { s with rsp := some 0x70000000#32 }) ∧
    (k < s.cfg.maxData →
      ∃ t, exec (.wrbuf k byte) s = .next t ∧ t = { s with txbuf := t.txbuf, rsp := some 0x00000000#32 } ∧
        Memory.read t.txbuf k = some byte ∧ (∀ a, a ≠ k → Memory.read t.txbuf a = Memory.read s.txbuf a) ∧
        (Memory.wf s.txbuf = true → Memory.wf t.txbuf = true))

/-- R202: a `transact` whose count exceeds `MAX_DATA`, or that names an entry not written, is refused and changes
nothing, whatever `sel` and `cmd` are. -/
def Obligations.TransactRequestCheckRefuses : Prop :=
  ∀ (sel cmd : Byte) (n : Nat) (s : State), (s.cfg.maxData < n ∨ ∃ k < n, Memory.read s.txbuf k = none) →
    exec (.transact sel cmd n) s = .next { s with rsp := some 0x70000000#32 }

/-- R203: set-up of a `transact` whose request check passes. An unsupported bus pad and, on a pin not acquired, the
engine's ownership of it are configuration errors that change nothing at all; otherwise the `acquire` of a pin not
acquired is performed, its effects stand, and the transaction starts from there as R204 says. -/
def Obligations.TransactSetUpAcquiresTheBusPin : Prop :=
  ∀ (sel cmd : Byte) (n : Nat) (s : State), ShapeInv s → n ≤ s.cfg.maxData →
    (∀ k < n, Memory.read s.txbuf k ≠ none) →
    (¬ (s.cfg.busGrp = 0 ∧ s.cfg.busPin < s.cfg.nPads) →
      exec (.transact sel cmd n) s = .next { s with rsp := some 0x20000000#32 }) ∧
    (s.cfg.busGrp = 0 ∧ s.cfg.busPin < s.cfg.nPads → (s.pin s.cfg.busPin).od = none →
      (s.pin s.cfg.busPin).owner = .engine →
      exec (.transact sel cmd n) s = .next { s with rsp := some 0x30000000#32 }) ∧
    (s.cfg.busGrp = 0 ∧ s.cfg.busPin < s.cfg.nPads → (s.pin s.cfg.busPin).od = none →
      (s.pin s.cfg.busPin).owner = .nobody →
      ∃ t, exec (.transact sel cmd n) s = .next t ∧
        t = { s with padreg := t.padreg, pins := t.pins, drv := t.drv, rsp := none } ∧
        t.drv = { sel := sel, cmd := cmd, n := t.drv.n, crc := s.cfg.crcInit, byte := 0#9, bit := 0#4, err := .ok,
                  busy := true, state := .startCondition, step := .startLow, cnt := s.cfg.tStart } ∧
        t.drv.n.toNat = n ∧
        t.pin s.cfg.busPin = { ovr := true, oe := true, out := false, owner := .emulator, od := some .drivenLow } ∧
        t.line s.cfg.busPin = .low ∧ (∀ q, q ≠ s.cfg.busPin → t.pin q = s.pin q) ∧
        ∀ a b, t.padBit a b =
          if a = padWordOf s.cfg s.cfg.busPin ∧ b = pueBitOf s.cfg s.cfg.busPin then true else s.padBit a b)

/-- R204: a `transact` that passes its checks, with the bus pin acquired, latches its operands and starts: busy,
`StartCondition`, `T_START` cycles to go, `drv.err` cleared, the pin driven low and, under the override that every
acquired pin has, its line low from this step on, no response yet; nothing else is written. -/
def Obligations.TransactStartsTheStartPulse : Prop :=
  ∀ (sel cmd : Byte) (n : Nat) (s : State), n < 256 → n ≤ s.cfg.maxData →
    (∀ k < n, Memory.read s.txbuf k ≠ none) → s.cfg.busGrp = 0 → s.cfg.busPin < s.cfg.nPads →
    (s.pin s.cfg.busPin).od ≠ none →
    ∃ t, exec (.transact sel cmd n) s = .next t ∧ t = { s with pins := t.pins, drv := t.drv, rsp := none } ∧
      t.drv = { sel := sel, cmd := cmd, n := t.drv.n, crc := s.cfg.crcInit, byte := 0#9, bit := 0#4, err := .ok,
                busy := true, state := .startCondition, step := .startLow, cnt := s.cfg.tStart } ∧
      t.drv.n.toNat = n ∧ t.pin s.cfg.busPin = { s.pin s.cfg.busPin with oe := true, od := some .drivenLow } ∧
      ((s.pin s.cfg.busPin).ovr = true → t.line s.cfg.busPin = .low) ∧
      ∀ q, q ≠ s.cfg.busPin → t.pin q = s.pin q

/-! ### Single-Wire Bus Driver: the transaction -/

/-- R212, R206: the start pulse is exactly `T_START` cycles of low line, from the cycle of acceptance; then the line
is released and the wait for it to be high begins, with `T_TIMEOUT` samples. -/
def Obligations.StartPulseIsExact : Prop :=
  ∀ (s : State) (sel cmd : Byte), Inv s → JustStarted s sel cmd →
    (∀ k < s.cfg.tStart.toNat, busOd (ticks k s) = some .drivenLow ∧ (ticks k s).line s.cfg.busPin = .low ∧
      (ticks k s).drv.state = .startCondition) ∧
    busOd (ticks s.cfg.tStart.toNat s) = some .released ∧
    (ticks s.cfg.tStart.toNat s).drv.step = .startRise ∧
    (ticks s.cfg.tStart.toNat s).drv.cnt = s.cfg.tTimeout

/-- R208: from the first cycle of a byte's first cell the driver holds, for cells 0 to 7, the two halves of
`CELL_CODE(B[7-j])` for `T_HALF` cycles each, and after `16 * T_HALF` cycles the ack slot begins with the line
released. The line is not mentioned: it plays no part. -/
def Obligations.SendByteHoldsItsCells : Prop :=
  ∀ s : State, Inv s → s.drv.busy = true → s.drv.step = .bitFirst → s.drv.bit = 0#4 → s.drv.cnt = s.cfg.tHalf →
    (∀ j < 8, ∀ k < s.cfg.tHalf.toNat,
      busOd (ticks (2 * j * s.cfg.tHalf.toNat + k) s) =
        some (cellCode s.cfg ((frameByte s s.drv.byte.toNat).getLsbD (7 - j))).1 ∧
      busOd (ticks ((2 * j + 1) * s.cfg.tHalf.toNat + k) s) =
        some (cellCode s.cfg ((frameByte s s.drv.byte.toNat).getLsbD (7 - j))).2) ∧
    busOd (ticks (16 * s.cfg.tHalf.toNat) s) = some .released ∧
    (ticks (16 * s.cfg.tHalf.toNat) s).drv.bit = 8#4 ∧
    (ticks (16 * s.cfg.tHalf.toNat) s).drv.step = if s.cfg.tAckDelay = 0#32 then .ackWait else .ackDelay

/-- R225, the round trip over the bit encoding: cutting the cells out of the record of line states held while a
byte is sent, and reading each by the cell code, gives the byte. -/
def Obligations.RecordedCellsDecodeToTheByte : Prop :=
  ∀ s : State, Inv s → s.drv.busy = true → s.drv.step = .bitFirst → s.drv.bit = 0#4 → s.drv.cnt = s.cfg.tHalf →
    decodeCells s.cfg (fun k => busOd (ticks k s)) = frameByte s s.drv.byte.toNat

/-- R105, R216: while the CRC byte is in hand, the byte sent is the CRC over the device-select byte, the command
byte and the data bytes, in the order sent, and `drv.crc` has not taken in the CRC byte itself. -/
def Obligations.CrcByteCoversTheFrame : Prop :=
  ∀ s : State, Inv s → s.drv.busy = true → s.drv.byte.toNat = s.drv.n.toNat + 2 →
    frameByte s s.drv.byte.toNat = crcOf s.cfg (crcBytes s) ∧ s.drv.crc = crcRun s.cfg (crcBytes s)

/-- The worked values of R209 at REF, its running values among them, and V-CRC-7 and V-CRC-8 for other
parameters. -/
def Obligations.CrcWorkedValues : Prop :=
  crcOf Config.ref [0xA1#8, 0x03#8] = 0x04#8 ∧
  crcOf Config.ref [0xA1#8, 0x6C#8, 0x00#8, 0x10#8, 0xDE#8, 0xAD#8] = 0x40#8 ∧
  (crcRun Config.ref [0xA1#8] = 0x6E#8 ∧ crcRun Config.ref [0xA1#8, 0x6C#8] = 0x0E#8 ∧
    crcRun Config.ref [0xA1#8, 0x6C#8, 0x00#8] = 0x2A#8 ∧ crcRun Config.ref [0xA1#8, 0x6C#8, 0x00#8, 0x10#8] = 0xA6#8 ∧
    crcRun Config.ref [0xA1#8, 0x6C#8, 0x00#8, 0x10#8, 0xDE#8] = 0x6F#8 ∧
    crcRun Config.ref [0xA1#8, 0x6C#8, 0x00#8, 0x10#8, 0xDE#8, 0xAD#8] = 0x40#8) ∧
  crcOf Config.ref checkDigits = 0xF4#8 ∧ crcOf Config.ref [] = 0x00#8 ∧
  crcUpdate Config.ref 0x00#8 0x80#8 = 0x89#8 ∧ crcUpdate Config.ref 0x00#8 0x01#8 = 0x07#8 ∧
  crcUpdate Config.ref 0x00#8 0xFF#8 = 0xF3#8 ∧
  (crcOf { Config.ref with crcPoly := 0x31#8, crcInit := 0xFF#8 } [0xA1#8, 0x03#8] = 0xD9#8 ∧
    crcOf { Config.ref with crcPoly := 0x31#8, crcInit := 0xFF#8 } checkDigits = 0xF7#8) ∧
  (crcOf { Config.ref with crcXorout := 0x55#8 } [] = 0x55#8 ∧
    crcOf { Config.ref with crcXorout := 0x55#8 } [0xA1#8, 0x03#8] = 0x51#8 ∧
    crcOf { Config.ref with crcXorout := 0x55#8 } checkDigits = 0xA1#8)

/-- R224: during the start pulse, the cells, the ignored cycles of a slot and the standby pulse, the level of the
line has no effect on the driver. -/
def Obligations.SamplesMatterOnlyInWaits : Prop :=
  ∀ s : State, s.drv.step ≠ .startRise → s.drv.step ≠ .ackWait → s.drv.step ≠ .ackRise →
    driverTick true s = driverTick false s

/-- R210, R212, R264, R265: what one sample does in each of the three bounded waits: the level waited for ends the
wait, the last sample without it ends the transaction with the wait's own error, any other counts down. -/
def Obligations.WaitsEndAsTheSlotSays : Prop :=
  ∀ s : State, Inv s → s.drv.busy = true →
    (s.drv.step = .startRise →
      (s.sampleValue s.cfg.busPin = true → (tick s).drv.state = .addressPhase ∧ (tick s).drv.step = .bitFirst) ∧
      (s.sampleValue s.cfg.busPin = false → s.drv.cnt = 1#32 →
        (tick s).drv.state = .error ∧ (tick s).rsp = some 0x50000000#32) ∧
      (s.sampleValue s.cfg.busPin = false → s.drv.cnt ≠ 1#32 →
        (tick s).drv = { s.drv with cnt := s.drv.cnt - 1#32 })) ∧
    (s.drv.step = .ackWait →
      (s.sampleValue s.cfg.busPin = s.cfg.ackLevel →
        (tick s).drv = { s.drv with step := .ackRise, cnt := s.cfg.tTimeout }) ∧
      (s.sampleValue s.cfg.busPin ≠ s.cfg.ackLevel → s.drv.cnt = 1#32 →
        (tick s).drv.state = .error ∧ (tick s).rsp = some 0x40000000#32) ∧
      (s.sampleValue s.cfg.busPin ≠ s.cfg.ackLevel → s.drv.cnt ≠ 1#32 →
        (tick s).drv = { s.drv with cnt := s.drv.cnt - 1#32 })) ∧
    (s.drv.step = .ackRise →
      (s.sampleValue s.cfg.busPin ≠ s.cfg.ackLevel → s.drv.byte.toNat < s.drv.n.toNat + 2 →
        (tick s).drv.byte.toNat = s.drv.byte.toNat + 1 ∧ (tick s).drv.step = .bitFirst) ∧
      (s.sampleValue s.cfg.busPin ≠ s.cfg.ackLevel → s.drv.byte.toNat = s.drv.n.toNat + 2 → s.cfg.tStandby ≠ 0#32 →
        (tick s).drv = { s.drv with state := .standbyPulse, step := .standby, cnt := s.cfg.tStandby }) ∧
      (s.sampleValue s.cfg.busPin ≠ s.cfg.ackLevel → s.drv.byte.toNat = s.drv.n.toNat + 2 → s.cfg.tStandby = 0#32 →
        (tick s).drv.state = .idle ∧ (tick s).rsp = some 0x00000000#32) ∧
      (s.sampleValue s.cfg.busPin = s.cfg.ackLevel → s.drv.cnt = 1#32 →
        (tick s).drv.state = .error ∧ (tick s).rsp = some 0x50000000#32) ∧
      (s.sampleValue s.cfg.busPin = s.cfg.ackLevel → s.drv.cnt ≠ 1#32 →
        (tick s).drv = { s.drv with cnt := s.drv.cnt - 1#32 }))

/-- R223, R211, R218, R270: a tick that ends a transaction leaves the line released, `TXBUF` empty and the
`transact` answered, with `Idle` and `Ok` or with `Error` and one of the two protocol errors; pads, overrides,
owners and every `out` but the running engine's are as before. -/
def Obligations.EveryExitReleasesTheLine : Prop :=
  ∀ s : State, Inv s → s.drv.busy = true → (tick s).drv.busy = false →
    busOd (tick s) = some .released ∧ ((tick s).pin s.cfg.busPin).oe = false ∧ (tick s).txbuf = [] ∧
    (((tick s).drv.state = .idle ∧ (tick s).drv.err = .ok ∧ (tick s).rsp = some 0x00000000#32) ∨
     ((tick s).drv.state = .error ∧ (tick s).drv.err = .noAcknowledge ∧ (tick s).rsp = some 0x40000000#32) ∨
     ((tick s).drv.state = .error ∧ (tick s).drv.err = .busTimeout ∧ (tick s).rsp = some 0x50000000#32)) ∧
    (tick s).padreg = s.padreg ∧
    ∀ p, ((tick s).pin p).ovr = (s.pin p).ovr ∧ ((tick s).pin p).owner = (s.pin p).owner ∧
      (¬ EnginePin s p → ((tick s).pin p).out = (s.pin p).out)

/-- R220: a step other than a reset changes `drv.state` only along a listed transition, under the condition
listed with it (the step, the sample, the last count, the checks a `transact` has passed) and with its further
effect. -/
def Obligations.OnlyListedTransitionsOccur : Prop :=
  ∀ s t : State, Inv s → s.rst = false → step s = .next t → t.drv.state ≠ s.drv.state → ListedTransition s t

/-- R219, R221: the per-cycle form is the procedure, cycle for cycle. From the acceptance of a `transact`, for
every number of ticks and every environment, the registers show what the sequential procedure holds in that
cycle when it is fed the same samples of the line, and its outcome once it has ended. -/
def Obligations.DriverTickFollowsTheProcedure : Prop :=
  ∀ (s : State) (sel cmd : Byte) (k : Nat), Inv s → JustStarted s sel cmd →
    showsProc (lockstep k s (Proc.settle (transactionSegs s.cfg sel cmd (dataBytes s)))).1
      (lockstep k s (Proc.settle (transactionSegs s.cfg sel cmd (dataBytes s)))).2

/-- R222: every transaction, failed or not, ends within the upper bound, whatever the environment does; a
successful one takes at least the lower bound. -/
def Obligations.EveryTransactionEndsWithinItsBound : Prop :=
  ∀ (s : State) (sel cmd : Byte), Inv s → JustStarted s sel cmd →
    ∃ k, k ≤ longestTransaction s.cfg s.drv.n.toNat ∧ (ticks k s).drv.busy = false ∧
      (∀ j < k, (ticks j s).drv.busy = true) ∧
      ((ticks k s).drv.err = .ok → shortestTransaction s.cfg s.drv.n.toNat ≤ k)

/-- R222, S5: when the device never acknowledges, the transaction ends with `NoAcknowledge` exactly
`T_START + j + 16 * T_HALF + T_ACK_DELAY + T_TIMEOUT` cycles after acceptance, the line released; `j` is the number of
samples the wait after the start pulse took: another participant holds the line low for the first `j - 1` of them
(`j = 1`: nothing ever holds it), and the pulls make the line float high otherwise. -/
def Obligations.SilentDeviceGivesNoAcknowledge : Prop :=
  ∀ (s : State) (sel cmd : Byte) (j last : Nat), Inv s → JustStarted s sel cmd → PulledUp s s.cfg.busPin →
    1 ≤ j → j ≤ s.cfg.tTimeout.toNat →
    last = s.cfg.tStart.toNat + j + 16 * s.cfg.tHalf.toNat + s.cfg.tAckDelay.toNat + s.cfg.tTimeout.toNat →
    (∀ k < last, lowAt s s.cfg.busPin k =
      some (decide (s.cfg.tStart.toNat ≤ k ∧ k + 1 < s.cfg.tStart.toNat + j))) →
    (∀ k < last, (ticks k s).drv.busy = true) ∧ (ticks last s).drv.busy = false ∧
    (ticks last s).drv.state = .error ∧ (ticks last s).drv.err = .noAcknowledge ∧
    (ticks last s).rsp = some 0x40000000#32 ∧ busOd (ticks last s) = some .released

/-- R222, R218, S7: when the device acknowledges every byte in the first cycle the driver listens and at no other
time pulls the line low, the transaction succeeds, after exactly the lower bound of R222, `Idle` with the line
released. -/
def Obligations.PromptDeviceSucceedsInTheLeastTime : Prop :=
  ∀ (s : State) (sel cmd : Byte), Inv s → JustStarted s sel cmd → PulledUp s s.cfg.busPin →
    (∀ k < shortestTransaction s.cfg s.drv.n.toNat, ∃ low, lowAt s s.cfg.busPin k = some low ∧
      (low = true ↔ PromptAck s.cfg s.drv.n.toNat k)) →
    (∀ k < shortestTransaction s.cfg s.drv.n.toNat, (ticks k s).drv.busy = true) ∧
    (ticks (shortestTransaction s.cfg s.drv.n.toNat) s).drv.busy = false ∧
    (ticks (shortestTransaction s.cfg s.drv.n.toNat) s).drv.state = .idle ∧
    (ticks (shortestTransaction s.cfg s.drv.n.toNat) s).rsp = some 0x00000000#32 ∧
    busOd (ticks (shortestTransaction s.cfg s.drv.n.toNat) s) = some .released

/-- R42, R75, R206: what a tick leaves: the configuration and the pad words; `ovr` and `owner` of every pin; `out`
of every pin but the running engine's; `od` and `oe` of every pin but the bus pin of a running transaction; all
the driver's registers and `TXBUF` while no transaction runs; the operands and `TXBUF` while one goes on. -/
def Obligations.TickFrame : Prop :=
  ∀ s : State,
    (tick s).cfg = s.cfg ∧ (tick s).padreg = s.padreg ∧ (tick s).cyc = s.cyc + 1 ∧
    (∀ p, ((tick s).pin p).ovr = (s.pin p).ovr ∧ ((tick s).pin p).owner = (s.pin p).owner ∧
      (¬ EnginePin s p → ((tick s).pin p).out = (s.pin p).out) ∧
      (¬ (s.drv.busy = true ∧ p = s.cfg.busPin) →
        ((tick s).pin p).od = (s.pin p).od ∧ ((tick s).pin p).oe = (s.pin p).oe)) ∧
    (s.drv.busy = false → (tick s).drv = s.drv ∧ (tick s).txbuf = s.txbuf ∧ (tick s).rsp = none) ∧
    (s.drv.busy = true → (tick s).drv.busy = true → (tick s).txbuf = s.txbuf ∧ (tick s).rsp = none ∧
      (tick s).drv.sel = s.drv.sel ∧ (tick s).drv.cmd = s.drv.cmd ∧ (tick s).drv.n = s.drv.n ∧
      (tick s).drv.err = s.drv.err)

/-! ### Reset, errors and whole-machine rules -/

/-- R45: the reset values the spec gives, in the launch state of every configuration and every pad contents. (The
position registers, which R45 leaves unspecified, are not mentioned.) -/
def Obligations.ResetValues : Prop :=
  ∀ (c : Cfg) (words : List Nat),
    (State.launch c words).padreg = words ∧
    (∀ p, (State.launch c words).pin p = { oe := false, out := false, ovr := false, od := none, owner := .nobody }) ∧
    (State.launch c words).eng = { cfgd := false, pin := 0#8, half := 0#16, run := false, cnt := 0#16, lvl := false } ∧
    (∀ k, Memory.read (State.launch c words).txbuf k = none) ∧ (State.launch c words).drv.state = .idle ∧
    (State.launch c words).drv.err = .ok ∧ (State.launch c words).drv.busy = false ∧ (State.launch c words).cyc = 0

/-- R300, R302: a cycle with `rst = 1` gives every register its reset value whatever the block was doing, leaves
`PADREG` alone, produces no response, and accepts no request. The last clause, that a request presented in that
cycle is still presented after it, is the MODEL'S CHOICE and no rule of the spec (log 11, DESIGN CHOICE). -/
def Obligations.ResetCycleTakesResetValues : Prop :=
  ∀ s : State, Cfg.legal s.cfg = true → s.rst = true →
    ∃ t, step s = .next t ∧ t.cfg = s.cfg ∧ t.padreg = s.padreg ∧ t.rsp = none ∧
      (∀ p, t.pin p = { oe := false, out := false, ovr := false, od := none, owner := .nobody }) ∧
      t.eng = { cfgd := false, pin := 0#8, half := 0#16, run := false, cnt := 0#16, lvl := false } ∧
      (∀ k, Memory.read t.txbuf k = none) ∧ t.drv.state = .idle ∧ t.drv.err = .ok ∧ t.drv.busy = false ∧
      ∀ (w : Word) (rest : List HostAct), s.host = .request w :: rest → t.host = .request w :: rest

/-- 10_state.md section 7: the invariants hold in the reset state, of every legal configuration and whatever the
pad words hold. -/
def Obligations.InvariantHoldsAtLaunch : Prop :=
  ∀ (c : Cfg) (words : List Nat), Cfg.legal c = true → LegalPadWords c words → Inv (State.launch c words)

/-- 10_state.md section 7: the invariants are kept by every step, from every state that meets them. -/
def Obligations.InvariantKeptByEveryStep : Prop :=
  ∀ s t : State, Inv s → step s = .next t → Inv t

/-- R23: no step changes a bit of a pad word that is not the pull-up or pull-down enable of some pad. -/
def Obligations.UnrelatedBitsNeverChange : Prop :=
  ∀ (s t : State) (a b : Nat), Inv s → step s = .next t → ¬ EnableBit s.cfg a b → t.padBit a b = s.padBit a b

/-- R267, R270: an operation answered with a configuration error or with `Refused` has written nothing at all. -/
def Obligations.ErrorsInTheRequestChangeNothing : Prop :=
  ∀ (i : Instr) (s t : State) (r : Word), exec i s = .next t → t.rsp = some r →
    responseStatus r = 1#4 ∨ responseStatus r = 2#4 ∨ responseStatus r = 3#4 ∨ responseStatus r = 7#4 →
    t = { s with rsp := some r }

/-- R266: no step ever presents a response word with `ST = 6`. -/
def Obligations.CrcMismatchIsNeverReported : Prop :=
  ∀ (s t : State) (r : Word), step s = .next t → t.rsp = some r → responseStatus r ≠ 6#4

/-- R280: who may raise what. Every operation is answered in its own step with a status of its row, `transact`
either so or by going busy; a tick answers only the `transact` that runs, with `Ok` or a protocol error. -/
def Obligations.StatusesOnlyAsListed : Prop :=
  (∀ (i : Instr) (s : State), ∃ t, exec i s = .next t ∧
    ((∃ st ∈ opStatuses i, ∃ r, t.rsp = some r ∧ responseStatus r = 0#1 ++ st.code) ∨
     ((∃ sel cmd n, i = .transact sel cmd n) ∧ t.rsp = none ∧ t.drv.busy = true))) ∧
  (∀ (s : State) (r : Word), (tick s).rsp = some r →
    s.drv.busy = true ∧ (tick s).drv.busy = false ∧ ∃ st ∈ tickStatuses, responseStatus r = 0#1 ++ st.code)

/-- R5: no step writes the configuration record. -/
def Obligations.ConfigurationIsNeverWritten : Prop :=
  ∀ s t : State, step s = .next t → t.cfg = s.cfg

/-! ### The clock, and what a pad drives -/

/-- R41, R42, R43: with `rst` low, when the host presents no request, the step is `Tick`, whether the driver is busy
or not: the clock never stands still. A cycle the host lets pass is taken from its schedule (log 6), and the next
cycle has the next entry of the environment's schedule (log 5). -/
def Obligations.ClockStepIsATick : Prop :=
  ∀ (s : State) (rest : List HostAct), Cfg.legal s.cfg = true → s.rst = false →
    s.host = [] ∨ s.host = .pass :: rest →
    step s = .next (tick s) ∧ (tick s).cyc = s.cyc + 1 ∧ (tick s).env = s.env.tail ∧ (tick s).host = s.host.tail

/-- R66, R178: what a pad drives, case by case; and the running engine's pin drives its `out`, which is then the
level of its line where no other participant pulls it low. -/
def Obligations.PadDrivesAsListed : Prop :=
  (∀ (s : State) (p : Nat),
    ((s.pin p).oe = false → s.drive p = .hiZ) ∧
    ((s.pin p).oe = true ∧ (s.pin p).ovr = true → s.drive p = .low) ∧
    ((s.pin p).oe = true ∧ (s.pin p).ovr = false ∧ (s.pin p).out = false → s.drive p = .low) ∧
    ((s.pin p).oe = true ∧ (s.pin p).ovr = false ∧ (s.pin p).out = true → s.drive p = .high)) ∧
  (∀ s : State, Inv s → s.eng.run = true →
    s.drive s.eng.pin.toNat = (if (s.pin s.eng.pin.toNat).out then .high else .low) ∧
    (s.ext s.eng.pin.toNat = false →
      s.line s.eng.pin.toNat = if (s.pin s.eng.pin.toNat).out then .high else .low))
end

