-- ==== Sys2Proof/Laws/State.lean ====
section
/-! SUPPORT. Each named update of the state, field by field: what it writes and what it leaves. -/

namespace Sys2Proof.Machine

variable (s : State)

/-! ### `memWrite` -/

@[simp] theorem State.memWrite_cfg (a v : Nat) : (s.memWrite a v).cfg = s.cfg := rfl
@[simp] theorem State.memWrite_padreg (a v : Nat) : (s.memWrite a v).padreg = s.padreg.set a v := rfl
@[simp] theorem State.memWrite_pins (a v : Nat) : (s.memWrite a v).pins = s.pins := rfl
@[simp] theorem State.memWrite_eng (a v : Nat) : (s.memWrite a v).eng = s.eng := rfl
@[simp] theorem State.memWrite_txbuf (a v : Nat) : (s.memWrite a v).txbuf = s.txbuf := rfl
@[simp] theorem State.memWrite_drv (a v : Nat) : (s.memWrite a v).drv = s.drv := rfl
@[simp] theorem State.memWrite_cyc (a v : Nat) : (s.memWrite a v).cyc = s.cyc := rfl
@[simp] theorem State.memWrite_env (a v : Nat) : (s.memWrite a v).env = s.env := rfl
@[simp] theorem State.memWrite_host (a v : Nat) : (s.memWrite a v).host = s.host := rfl
@[simp] theorem State.memWrite_draws (a v : Nat) : (s.memWrite a v).draws = s.draws := rfl
@[simp] theorem State.memWrite_rsp (a v : Nat) : (s.memWrite a v).rsp = s.rsp := rfl

/-! ### `setBit` -/

@[simp] theorem State.setBit_cfg (a b : Nat) : (s.setBit a b).cfg = s.cfg := rfl
@[simp] theorem State.setBit_padreg (a b : Nat) : (s.setBit a b).padreg = s.padreg.set a (withBitSet s.cfg.padW (s.memRead a) b) := rfl
@[simp] theorem State.setBit_pins (a b : Nat) : (s.setBit a b).pins = s.pins := rfl
@[simp] theorem State.setBit_eng (a b : Nat) : (s.setBit a b).eng = s.eng := rfl
@[simp] theorem State.setBit_txbuf (a b : Nat) : (s.setBit a b).txbuf = s.txbuf := rfl
@[simp] theorem State.setBit_drv (a b : Nat) : (s.setBit a b).drv = s.drv := rfl
@[simp] theorem State.setBit_cyc (a b : Nat) : (s.setBit a b).cyc = s.cyc := rfl
@[simp] theorem State.setBit_env (a b : Nat) : (s.setBit a b).env = s.env := rfl
@[simp] theorem State.setBit_host (a b : Nat) : (s.setBit a b).host = s.host := rfl
@[simp] theorem State.setBit_draws (a b : Nat) : (s.setBit a b).draws = s.draws := rfl
@[simp] theorem State.setBit_rsp (a b : Nat) : (s.setBit a b).rsp = s.rsp := rfl

/-! ### `clrBit` -/

@[simp] theorem State.clrBit_cfg (a b : Nat) : (s.clrBit a b).cfg = s.cfg := rfl
@[simp] theorem State.clrBit_padreg (a b : Nat) : (s.clrBit a b).padreg = s.padreg.set a (withBitClear s.cfg.padW (s.memRead a) b) := rfl
@[simp] theorem State.clrBit_pins (a b : Nat) : (s.clrBit a b).pins = s.pins := rfl
@[simp] theorem State.clrBit_eng (a b : Nat) : (s.clrBit a b).eng = s.eng := rfl
@[simp] theorem State.clrBit_txbuf (a b : Nat) : (s.clrBit a b).txbuf = s.txbuf := rfl
@[simp] theorem State.clrBit_drv (a b : Nat) : (s.clrBit a b).drv = s.drv := rfl
@[simp] theorem State.clrBit_cyc (a b : Nat) : (s.clrBit a b).cyc = s.cyc := rfl
@[simp] theorem State.clrBit_env (a b : Nat) : (s.clrBit a b).env = s.env := rfl
@[simp] theorem State.clrBit_host (a b : Nat) : (s.clrBit a b).host = s.host := rfl
@[simp] theorem State.clrBit_draws (a b : Nat) : (s.clrBit a b).draws = s.draws := rfl
@[simp] theorem State.clrBit_rsp (a b : Nat) : (s.clrBit a b).rsp = s.rsp := rfl

/-! ### `updPin` -/

@[simp] theorem State.updPin_cfg (p : Nat) (f : Pin → Pin) : (s.updPin p f).cfg = s.cfg := rfl
@[simp] theorem State.updPin_padreg (p : Nat) (f : Pin → Pin) : (s.updPin p f).padreg = s.padreg := rfl
@[simp] theorem State.updPin_pins (p : Nat) (f : Pin → Pin) : (s.updPin p f).pins = s.pins.modify p f := rfl
@[simp] theorem State.updPin_eng (p : Nat) (f : Pin → Pin) : (s.updPin p f).eng = s.eng := rfl
@[simp] theorem State.updPin_txbuf (p : Nat) (f : Pin → Pin) : (s.updPin p f).txbuf = s.txbuf := rfl
@[simp] theorem State.updPin_drv (p : Nat) (f : Pin → Pin) : (s.updPin p f).drv = s.drv := rfl
@[simp] theorem State.updPin_cyc (p : Nat) (f : Pin → Pin) : (s.updPin p f).cyc = s.cyc := rfl
@[simp] theorem State.updPin_env (p : Nat) (f : Pin → Pin) : (s.updPin p f).env = s.env := rfl
@[simp] theorem State.updPin_host (p : Nat) (f : Pin → Pin) : (s.updPin p f).host = s.host := rfl
@[simp] theorem State.updPin_draws (p : Nat) (f : Pin → Pin) : (s.updPin p f).draws = s.draws := rfl
@[simp] theorem State.updPin_rsp (p : Nat) (f : Pin → Pin) : (s.updPin p f).rsp = s.rsp := rfl

/-! ### `setOdAt` -/

@[simp] theorem State.setOdAt_cfg (p : Nat) (o : Od) : (s.setOdAt p o).cfg = s.cfg := rfl
@[simp] theorem State.setOdAt_padreg (p : Nat) (o : Od) : (s.setOdAt p o).padreg = s.padreg := rfl
@[simp] theorem State.setOdAt_pins (p : Nat) (o : Od) : (s.setOdAt p o).pins = s.pins.modify p fun q => { q with od := some o, oe := decide (o = .drivenLow) } := rfl
@[simp] theorem State.setOdAt_eng (p : Nat) (o : Od) : (s.setOdAt p o).eng = s.eng := rfl
@[simp] theorem State.setOdAt_txbuf (p : Nat) (o : Od) : (s.setOdAt p o).txbuf = s.txbuf := rfl
@[simp] theorem State.setOdAt_drv (p : Nat) (o : Od) : (s.setOdAt p o).drv = s.drv := rfl
@[simp] theorem State.setOdAt_cyc (p : Nat) (o : Od) : (s.setOdAt p o).cyc = s.cyc := rfl
@[simp] theorem State.setOdAt_env (p : Nat) (o : Od) : (s.setOdAt p o).env = s.env := rfl
@[simp] theorem State.setOdAt_host (p : Nat) (o : Od) : (s.setOdAt p o).host = s.host := rfl
@[simp] theorem State.setOdAt_draws (p : Nat) (o : Od) : (s.setOdAt p o).draws = s.draws := rfl
@[simp] theorem State.setOdAt_rsp (p : Nat) (o : Od) : (s.setOdAt p o).rsp = s.rsp := rfl

/-! ### `setOd` -/

@[simp] theorem State.setOd_cfg (o : Od) : (s.setOd o).cfg = s.cfg := rfl
@[simp] theorem State.setOd_padreg (o : Od) : (s.setOd o).padreg = s.padreg := rfl
@[simp] theorem State.setOd_pins (o : Od) : (s.setOd o).pins = (s.setOdAt s.cfg.busPin o).pins := rfl
@[simp] theorem State.setOd_eng (o : Od) : (s.setOd o).eng = s.eng := rfl
@[simp] theorem State.setOd_txbuf (o : Od) : (s.setOd o).txbuf = s.txbuf := rfl
@[simp] theorem State.setOd_drv (o : Od) : (s.setOd o).drv = s.drv := rfl
@[simp] theorem State.setOd_cyc (o : Od) : (s.setOd o).cyc = s.cyc := rfl
@[simp] theorem State.setOd_env (o : Od) : (s.setOd o).env = s.env := rfl
@[simp] theorem State.setOd_host (o : Od) : (s.setOd o).host = s.host := rfl
@[simp] theorem State.setOd_draws (o : Od) : (s.setOd o).draws = s.draws := rfl
@[simp] theorem State.setOd_rsp (o : Od) : (s.setOd o).rsp = s.rsp := rfl

/-! ### `respond` -/

@[simp] theorem State.respond_cfg (r : Word) : (s.respond r).cfg = s.cfg := rfl
@[simp] theorem State.respond_padreg (r : Word) : (s.respond r).padreg = s.padreg := rfl
@[simp] theorem State.respond_pins (r : Word) : (s.respond r).pins = s.pins := rfl
@[simp] theorem State.respond_eng (r : Word) : (s.respond r).eng = s.eng := rfl
@[simp] theorem State.respond_txbuf (r : Word) : (s.respond r).txbuf = s.txbuf := rfl
@[simp] theorem State.respond_drv (r : Word) : (s.respond r).drv = s.drv := rfl
@[simp] theorem State.respond_cyc (r : Word) : (s.respond r).cyc = s.cyc := rfl
@[simp] theorem State.respond_env (r : Word) : (s.respond r).env = s.env := rfl
@[simp] theorem State.respond_host (r : Word) : (s.respond r).host = s.host := rfl
@[simp] theorem State.respond_draws (r : Word) : (s.respond r).draws = s.draws := rfl
@[simp] theorem State.respond_rsp (r : Word) : (s.respond r).rsp = some r := rfl

/-! ### `silent` -/

@[simp] theorem State.silent_cfg : (s.silent).cfg = s.cfg := rfl
@[simp] theorem State.silent_padreg : (s.silent).padreg = s.padreg := rfl
@[simp] theorem State.silent_pins : (s.silent).pins = s.pins := rfl
@[simp] theorem State.silent_eng : (s.silent).eng = s.eng := rfl
@[simp] theorem State.silent_txbuf : (s.silent).txbuf = s.txbuf := rfl
@[simp] theorem State.silent_drv : (s.silent).drv = s.drv := rfl
@[simp] theorem State.silent_cyc : (s.silent).cyc = s.cyc := rfl
@[simp] theorem State.silent_env : (s.silent).env = s.env := rfl
@[simp] theorem State.silent_host : (s.silent).host = s.host := rfl
@[simp] theorem State.silent_draws : (s.silent).draws = s.draws := rfl
@[simp] theorem State.silent_rsp : (s.silent).rsp = none := rfl

/-! ### `nextCycle` -/

@[simp] theorem State.nextCycle_cfg : (s.nextCycle).cfg = s.cfg := rfl
@[simp] theorem State.nextCycle_padreg : (s.nextCycle).padreg = s.padreg := rfl
@[simp] theorem State.nextCycle_pins : (s.nextCycle).pins = s.pins := rfl
@[simp] theorem State.nextCycle_eng : (s.nextCycle).eng = s.eng := rfl
@[simp] theorem State.nextCycle_txbuf : (s.nextCycle).txbuf = s.txbuf := rfl
@[simp] theorem State.nextCycle_drv : (s.nextCycle).drv = s.drv := rfl
@[simp] theorem State.nextCycle_cyc : (s.nextCycle).cyc = s.cyc + 1 := rfl
@[simp] theorem State.nextCycle_env : (s.nextCycle).env = s.env.tail := rfl
@[simp] theorem State.nextCycle_host : (s.nextCycle).host = s.hostAfterCycle := rfl
@[simp] theorem State.nextCycle_draws : (s.nextCycle).draws = s.draws := rfl
@[simp] theorem State.nextCycle_rsp : (s.nextCycle).rsp = s.rsp := rfl

/-! ### `taken` -/

@[simp] theorem State.taken_cfg : (s.taken).cfg = s.cfg := rfl
@[simp] theorem State.taken_padreg : (s.taken).padreg = s.padreg := rfl
@[simp] theorem State.taken_pins : (s.taken).pins = s.pins := rfl
@[simp] theorem State.taken_eng : (s.taken).eng = s.eng := rfl
@[simp] theorem State.taken_txbuf : (s.taken).txbuf = s.txbuf := rfl
@[simp] theorem State.taken_drv : (s.taken).drv = s.drv := rfl
@[simp] theorem State.taken_cyc : (s.taken).cyc = s.cyc := rfl
@[simp] theorem State.taken_env : (s.taken).env = s.env := rfl
@[simp] theorem State.taken_host : (s.taken).host = s.host.tail := rfl
@[simp] theorem State.taken_draws : (s.taken).draws = s.draws := rfl
@[simp] theorem State.taken_rsp : (s.taken).rsp = s.rsp := rfl

/-! ### `goTo` -/

@[simp] theorem goTo_cfg (st : DrvStep) (c : BitVec 32) : (goTo st c s).cfg = s.cfg := rfl
@[simp] theorem goTo_padreg (st : DrvStep) (c : BitVec 32) : (goTo st c s).padreg = s.padreg := rfl
@[simp] theorem goTo_pins (st : DrvStep) (c : BitVec 32) : (goTo st c s).pins = s.pins := rfl
@[simp] theorem goTo_eng (st : DrvStep) (c : BitVec 32) : (goTo st c s).eng = s.eng := rfl
@[simp] theorem goTo_txbuf (st : DrvStep) (c : BitVec 32) : (goTo st c s).txbuf = s.txbuf := rfl
@[simp] theorem goTo_cyc (st : DrvStep) (c : BitVec 32) : (goTo st c s).cyc = s.cyc := rfl
@[simp] theorem goTo_env (st : DrvStep) (c : BitVec 32) : (goTo st c s).env = s.env := rfl
@[simp] theorem goTo_host (st : DrvStep) (c : BitVec 32) : (goTo st c s).host = s.host := rfl
@[simp] theorem goTo_draws (st : DrvStep) (c : BitVec 32) : (goTo st c s).draws = s.draws := rfl
@[simp] theorem goTo_rsp (st : DrvStep) (c : BitVec 32) : (goTo st c s).rsp = s.rsp := rfl
@[simp] theorem goTo_drv_state (st : DrvStep) (c : BitVec 32) : (goTo st c s).drv.state = s.drv.state := rfl
@[simp] theorem goTo_drv_err (st : DrvStep) (c : BitVec 32) : (goTo st c s).drv.err = s.drv.err := rfl
@[simp] theorem goTo_drv_busy (st : DrvStep) (c : BitVec 32) : (goTo st c s).drv.busy = s.drv.busy := rfl
@[simp] theorem goTo_drv_sel (st : DrvStep) (c : BitVec 32) : (goTo st c s).drv.sel = s.drv.sel := rfl
@[simp] theorem goTo_drv_cmd (st : DrvStep) (c : BitVec 32) : (goTo st c s).drv.cmd = s.drv.cmd := rfl
@[simp] theorem goTo_drv_n (st : DrvStep) (c : BitVec 32) : (goTo st c s).drv.n = s.drv.n := rfl
@[simp] theorem goTo_drv_byte (st : DrvStep) (c : BitVec 32) : (goTo st c s).drv.byte = s.drv.byte := rfl
@[simp] theorem goTo_drv_bit (st : DrvStep) (c : BitVec 32) : (goTo st c s).drv.bit = s.drv.bit := rfl
@[simp] theorem goTo_drv_step (st : DrvStep) (c : BitVec 32) : (goTo st c s).drv.step = st := rfl
@[simp] theorem goTo_drv_cnt (st : DrvStep) (c : BitVec 32) : (goTo st c s).drv.cnt = c := rfl
@[simp] theorem goTo_drv_crc (st : DrvStep) (c : BitVec 32) : (goTo st c s).drv.crc = s.drv.crc := rfl

/-! ### `countDown` -/

@[simp] theorem countDown_cfg : (countDown s).cfg = s.cfg := rfl
@[simp] theorem countDown_padreg : (countDown s).padreg = s.padreg := rfl
@[simp] theorem countDown_pins : (countDown s).pins = s.pins := rfl
@[simp] theorem countDown_eng : (countDown s).eng = s.eng := rfl
@[simp] theorem countDown_txbuf : (countDown s).txbuf = s.txbuf := rfl
@[simp] theorem countDown_cyc : (countDown s).cyc = s.cyc := rfl
@[simp] theorem countDown_env : (countDown s).env = s.env := rfl
@[simp] theorem countDown_host : (countDown s).host = s.host := rfl
@[simp] theorem countDown_draws : (countDown s).draws = s.draws := rfl
@[simp] theorem countDown_rsp : (countDown s).rsp = s.rsp := rfl
@[simp] theorem countDown_drv_state : (countDown s).drv.state = s.drv.state := rfl
@[simp] theorem countDown_drv_err : (countDown s).drv.err = s.drv.err := rfl
@[simp] theorem countDown_drv_busy : (countDown s).drv.busy = s.drv.busy := rfl
@[simp] theorem countDown_drv_sel : (countDown s).drv.sel = s.drv.sel := rfl
@[simp] theorem countDown_drv_cmd : (countDown s).drv.cmd = s.drv.cmd := rfl
@[simp] theorem countDown_drv_n : (countDown s).drv.n = s.drv.n := rfl
@[simp] theorem countDown_drv_byte : (countDown s).drv.byte = s.drv.byte := rfl
@[simp] theorem countDown_drv_bit : (countDown s).drv.bit = s.drv.bit := rfl
@[simp] theorem countDown_drv_step : (countDown s).drv.step = s.drv.step := rfl
@[simp] theorem countDown_drv_cnt : (countDown s).drv.cnt = s.drv.cnt - 1#32 := rfl
@[simp] theorem countDown_drv_crc : (countDown s).drv.crc = s.drv.crc := rfl

end Sys2Proof.Machine
end

