-- ==== Sys2Proof/Laws/Pins.lean ====
section
/-! SUPPORT. The pin registers under an update (spec/10_state.md R24 to R28). -/

namespace Sys2Proof.Machine

theorem State.pin_updPin_same (s : State) {p : Nat} (f : Pin → Pin) (h : p < s.pins.length) :
    (s.updPin p f).pin p = f (s.pin p) := by
  simp [State.pin, h]

theorem State.pin_updPin_other (s : State) {p q : Nat} (f : Pin → Pin) (h : q ≠ p) :
    (s.updPin p f).pin q = s.pin q := by
  simp [State.pin, Ne.symm h]

/-- A pin that is acquired exists: past the last pin `od` reads `none`. -/
theorem State.pin_lt_of_od (s : State) {p : Nat} (h : (s.pin p).od ≠ none) : p < s.pins.length := by
  by_contra hp
  exact h (by simp [State.pin, List.getElem?_eq_none (not_lt.1 hp), Pin.atReset])

theorem State.pin_setOdAt_same (s : State) {p : Nat} (o : Od) (h : p < s.pins.length) :
    (s.setOdAt p o).pin p = { s.pin p with od := some o, oe := decide (o = .drivenLow) } :=
  s.pin_updPin_same _ h

theorem State.pin_setOdAt_other (s : State) {p q : Nat} (o : Od) (h : q ≠ p) : (s.setOdAt p o).pin q = s.pin q :=
  s.pin_updPin_other _ h

/-- An update that leaves one field of every pin alone. -/
theorem State.pin_updPin_field {α : Type} (g : Pin → α) (s : State) (p q : Nat) (f : Pin → Pin)
    (h : ∀ r, g (f r) = g r) : g ((s.updPin p f).pin q) = g (s.pin q) := by
  by_cases hq : q = p
  · subst hq
    by_cases hl : q < s.pins.length
    · rw [s.pin_updPin_same f hl, h]
    · simp [State.pin, List.getElem?_eq_none (not_lt.1 hl)]
  · rw [s.pin_updPin_other f hq]

@[simp] theorem State.pin_respond (s : State) (r : Word) (p : Nat) : (s.respond r).pin p = s.pin p := rfl

@[simp] theorem State.pin_silent (s : State) (p : Nat) : s.silent.pin p = s.pin p := rfl

@[simp] theorem State.pin_nextCycle (s : State) (p : Nat) : s.nextCycle.pin p = s.pin p := rfl

@[simp] theorem State.pin_memWrite (s : State) (a v p : Nat) : (s.memWrite a v).pin p = s.pin p := rfl

@[simp] theorem State.pin_setBit (s : State) (a b p : Nat) : (s.setBit a b).pin p = s.pin p := rfl

@[simp] theorem State.pin_clrBit (s : State) (a b p : Nat) : (s.clrBit a b).pin p = s.pin p := rfl

@[simp] theorem pin_goTo (s : State) (st : DrvStep) (c : BitVec 32) (p : Nat) : (goTo st c s).pin p = s.pin p := rfl

@[simp] theorem pin_countDown (s : State) (p : Nat) : (countDown s).pin p = s.pin p := rfl

end Sys2Proof.Machine
end

