-- ==== Sys2Proof/Laws/Line.lean ====
section
/-! SUPPORT. The line and its samples (spec/20_memory.md R66, R67). -/

namespace Sys2Proof.Machine

/-- A pin whose output is enabled under the override drives low, whatever `out` holds (R66). -/
theorem Pin.drive_low_of_override {q : Pin} (h : q.oe = true) (ho : q.ovr = true) : q.drive = .low := by
  simp [Pin.drive, h, ho]

theorem Pin.drive_hiZ_iff (q : Pin) : q.drive = .hiZ ↔ q.oe = false := by
  obtain ⟨oe, out, ovr, od, owner⟩ := q
  cases oe <;> cases ovr <;> cases out <;> simp [Pin.drive]

theorem Pin.drive_high_iff (q : Pin) : q.drive = .high ↔ q.oe = true ∧ q.ovr = false ∧ q.out = true := by
  obtain ⟨oe, out, ovr, od, owner⟩ := q
  cases oe <;> cases ovr <;> cases out <;> simp [Pin.drive]

/-- A pin whose output is enabled without the override drives its `out` (R66). -/
theorem Pin.drive_of_out {q : Pin} (h : q.oe = true) (ho : q.ovr = false) :
    q.drive = if q.out then .high else .low := by
  simp [Pin.drive, h, ho]

@[simp] theorem resolve_low (ext pue pde : Bool) : resolve .low ext pue pde = .low := by cases ext <;> rfl

@[simp] theorem resolve_high_alone (pue pde : Bool) : resolve .high false pue pde = .high := rfl

@[simp] theorem resolve_contention (pue pde : Bool) : resolve .high true pue pde = .unspecified := rfl

@[simp] theorem resolve_hiZ_pulledUp : resolve .hiZ false true false = .high := rfl

@[simp] theorem resolve_hiZ_ext (pue pde : Bool) : resolve .hiZ true pue pde = .low := rfl

/-- A released pin with only its pull-up enabled reads high unless another participant pulls low (R67). -/
theorem State.line_of_released (s : State) {p : Nat} (h : (s.pin p).oe = false) (hu : s.pue p = true)
    (hd : s.pde p = false) : s.line p = if s.ext p then .low else .high := by
  have : s.drive p = .hiZ := (Pin.drive_hiZ_iff _).2 h
  cases he : s.ext p <;> simp [State.line, this, hu, hd, he]

/-- A use of the line changes nothing but the count of free draws. -/
theorem State.afterSample_eq (s : State) (p : Nat) :
    s.afterSample p = { s with draws := (s.afterSample p).draws } := by
  unfold State.afterSample
  cases s.line p <;> rfl

/-- Where the line has a level a use of it changes nothing and gives that level. -/
theorem State.sample_of_level (s : State) {p : Nat} (h : s.line p ≠ .unspecified) :
    s.afterSample p = s ∧ s.sampleValue p = decide (s.line p = .high) := by
  unfold State.afterSample State.sampleValue
  cases hl : s.line p <;> simp_all

@[simp] theorem State.afterSample_cfg (s : State) (p : Nat) : (s.afterSample p).cfg = s.cfg := by
  rw [s.afterSample_eq]
@[simp] theorem State.afterSample_padreg (s : State) (p : Nat) : (s.afterSample p).padreg = s.padreg := by
  rw [s.afterSample_eq]
@[simp] theorem State.afterSample_pins (s : State) (p : Nat) : (s.afterSample p).pins = s.pins := by
  rw [s.afterSample_eq]
@[simp] theorem State.afterSample_eng (s : State) (p : Nat) : (s.afterSample p).eng = s.eng := by
  rw [s.afterSample_eq]
@[simp] theorem State.afterSample_txbuf (s : State) (p : Nat) : (s.afterSample p).txbuf = s.txbuf := by
  rw [s.afterSample_eq]
@[simp] theorem State.afterSample_drv (s : State) (p : Nat) : (s.afterSample p).drv = s.drv := by
  rw [s.afterSample_eq]
@[simp] theorem State.afterSample_cyc (s : State) (p : Nat) : (s.afterSample p).cyc = s.cyc := by
  rw [s.afterSample_eq]
@[simp] theorem State.afterSample_env (s : State) (p : Nat) : (s.afterSample p).env = s.env := by
  rw [s.afterSample_eq]
@[simp] theorem State.afterSample_host (s : State) (p : Nat) : (s.afterSample p).host = s.host := by
  rw [s.afterSample_eq]
@[simp] theorem State.afterSample_rsp (s : State) (p : Nat) : (s.afterSample p).rsp = s.rsp := by
  rw [s.afterSample_eq]

end Sys2Proof.Machine
end

