-- ==== Sys2Proof/Laws/Driver.lean ====
section
/-! SUPPORT. What the shared operations of the driver and the engine can do (spec/42_bit_timing.md R174;
spec/43_bus_driver.md R211, R218, R221). -/

namespace Sys2Proof.Machine

/-! ### The ends of a transaction -/

@[simp] theorem endTransaction_drv (st : DrvState) (e : Status) (s : State) :
    (endTransaction st e s).drv = { s.drv with state := st, err := e, busy := false } := rfl
@[simp] theorem endTransaction_txbuf (st : DrvState) (e : Status) (s : State) :
    (endTransaction st e s).txbuf = [] := rfl
@[simp] theorem endTransaction_rsp (st : DrvState) (e : Status) (s : State) :
    (endTransaction st e s).rsp = some (statusOnly e) := rfl
@[simp] theorem endTransaction_pins (st : DrvState) (e : Status) (s : State) :
    (endTransaction st e s).pins = (s.setOd .released).pins := rfl

/-! ### Inversion: what one `DriverTick` can do -/

/-- The states one `DriverTick` can lead to, with the condition of each (R221). -/
theorem driverTick_cases (x : Bool) (s : State) :
    (driverTick x s = countDown s ∧ s.drv.cnt ≠ 1#32) ∨
    (s.drv.step = .startLow ∧ s.drv.cnt = 1#32 ∧ driverTick x s = goTo .startRise s.cfg.tTimeout (s.setOd .released)) ∨
    (s.drv.step = .startRise ∧ x = true ∧ driverTick x s = beginByte 0#9 s) ∨
    (s.drv.step = .startRise ∧ x = false ∧ s.drv.cnt = 1#32 ∧ driverTick x s = failTransaction .busTimeout s) ∨
    (s.drv.step = .bitFirst ∧ s.drv.cnt = 1#32 ∧
      driverTick x s = goTo .bitSecond s.cfg.tHalf (s.setOd (curCell s s.drv.bit.toNat).2)) ∨
    (s.drv.step = .bitSecond ∧ ¬ 1#32 < s.drv.cnt ∧ driverTick x s = tickBitSecond s) ∨
    (s.drv.step = .ackDelay ∧ s.drv.cnt = 1#32 ∧ driverTick x s = goTo .ackWait s.cfg.tTimeout s) ∨
    (s.drv.step = .ackWait ∧ x = s.cfg.ackLevel ∧ driverTick x s = goTo .ackRise s.cfg.tTimeout s) ∨
    (s.drv.step = .ackWait ∧ x ≠ s.cfg.ackLevel ∧ s.drv.cnt = 1#32 ∧ driverTick x s = failTransaction .noAcknowledge s) ∨
    (s.drv.step = .ackRise ∧ (x = !s.cfg.ackLevel) ∧ driverTick x s = slotDone s) ∨
    (s.drv.step = .ackRise ∧ (x ≠ !s.cfg.ackLevel) ∧ s.drv.cnt = 1#32 ∧ driverTick x s = failTransaction .busTimeout s) ∨
    (s.drv.step = .standby ∧ s.drv.cnt = 1#32 ∧ driverTick x s = completeTransaction s) := by
  cases hs : s.drv.step <;> simp only [driverTick, hs, reduceCtorEq, false_and, or_false, false_or, true_and]
  · unfold tickStartLow; split <;> simp [*]
  · unfold tickStartRise
    cases x
    · by_cases h : s.drv.cnt = 1#32 <;> simp [h]
    · simp
  · unfold tickBitFirst; split <;> simp [*]
  · by_cases h : 1#32 < s.drv.cnt
    · refine .inl ⟨if_pos h, fun e => ?_⟩
      rw [e] at h
      exact absurd h (by decide)
    · exact .inr ⟨h, trivial⟩
  · unfold tickAckDelay; split <;> simp [*]
  · unfold tickAckWait
    by_cases hx : x = s.cfg.ackLevel
    · simp [hx]
    · by_cases h : s.drv.cnt = 1#32 <;> simp [hx, h]
  · unfold tickAckRise
    by_cases hx : x = !s.cfg.ackLevel
    · simp [hx]
    · by_cases h : s.drv.cnt = 1#32 <;> simp [hx, h]
  · unfold tickStandby; split <;> simp [*]

/-- What `s` and `t` share when only the driver's registers, `TXBUF`, the response and the bus pin's `od` and
`oe` may differ. -/
structure SameBesideDriver (s t : State) : Prop where
  cfg : t.cfg = s.cfg
  padreg : t.padreg = s.padreg
  eng : t.eng = s.eng
  cyc : t.cyc = s.cyc
  env : t.env = s.env
  host : t.host = s.host
  draws : t.draws = s.draws
  length : t.pins.length = s.pins.length
  others : ∀ q, q ≠ s.cfg.busPin → t.pin q = s.pin q
  out : ∀ q, (t.pin q).out = (s.pin q).out
  ovr : ∀ q, (t.pin q).ovr = (s.pin q).ovr
  owner : ∀ q, (t.pin q).owner = (s.pin q).owner

theorem SameBesideDriver.of_pins_eq {s t : State} (h : t.pins = s.pins) (h1 : t.cfg = s.cfg)
    (h2 : t.padreg = s.padreg) (h3 : t.eng = s.eng) (h4 : t.cyc = s.cyc) (h5 : t.env = s.env)
    (h6 : t.host = s.host) (h7 : t.draws = s.draws) : SameBesideDriver s t := by
  have hp : ∀ q, t.pin q = s.pin q := fun q => by simp [State.pin, h]
  exact ⟨h1, h2, h3, h4, h5, h6, h7, by rw [h], fun q _ => hp q, fun q => by rw [hp], fun q => by rw [hp],
    fun q => by rw [hp]⟩

theorem SameBesideDriver.of_setOd {s t : State} {o : Od} (h : t.pins = (s.setOd o).pins) (h1 : t.cfg = s.cfg)
    (h2 : t.padreg = s.padreg) (h3 : t.eng = s.eng) (h4 : t.cyc = s.cyc) (h5 : t.env = s.env)
    (h6 : t.host = s.host) (h7 : t.draws = s.draws) : SameBesideDriver s t := by
  have hp : ∀ q, t.pin q = (s.setOd o).pin q := fun q => by simp [State.pin, h]
  refine ⟨h1, h2, h3, h4, h5, h6, h7, by simp [h], fun q hq => ?_, fun q => ?_, fun q => ?_, fun q => ?_⟩
  · rw [hp]; exact s.pin_setOdAt_other o hq
  · rw [hp]; exact State.pin_updPin_field Pin.out s _ q _ fun _ => rfl
  · rw [hp]; exact State.pin_updPin_field Pin.ovr s _ q _ fun _ => rfl
  · rw [hp]; exact State.pin_updPin_field Pin.owner s _ q _ fun _ => rfl

theorem beginByte_same (k : BitVec 9) (s : State) : SameBesideDriver s (beginByte k s) :=
  .of_setOd (o := (cellOf s.cfg (frameByte s k.toNat) 0).1) rfl rfl rfl rfl rfl rfl rfl rfl

theorem endTransaction_same (st : DrvState) (e : Status) (s : State) : SameBesideDriver s (endTransaction st e s) :=
  .of_setOd (o := .released) rfl rfl rfl rfl rfl rfl rfl rfl

theorem byteOut_same (s : State) : SameBesideDriver s (byteOut s) := by
  unfold byteOut
  by_cases h : s.cfg.tAckDelay = 0#32
  · simp only [h, if_true]; exact .of_setOd (o := .released) rfl rfl rfl rfl rfl rfl rfl rfl
  · simp only [h, if_false]; exact .of_setOd (o := .released) rfl rfl rfl rfl rfl rfl rfl rfl

theorem tickBitSecond_same (s : State) : SameBesideDriver s (tickBitSecond s) := by
  unfold tickBitSecond
  split
  · exact .of_pins_eq rfl rfl rfl rfl rfl rfl rfl rfl
  · split
    · exact .of_setOd (o := (curCell s (s.drv.bit.toNat + 1)).1) rfl rfl rfl rfl rfl rfl rfl rfl
    · exact byteOut_same s

theorem slotDone_same (s : State) : SameBesideDriver s (slotDone s) := by
  unfold slotDone
  split
  · exact beginByte_same _ s
  · split
    · exact endTransaction_same _ _ s
    · exact .of_pins_eq rfl rfl rfl rfl rfl rfl rfl rfl

/-- The frame of `DriverTick` (R42, R221): the engine, the pads, the other pins and the bus pin's `out`, `ovr`
and `owner` are as before. -/
theorem driverTick_same (x : Bool) (s : State) : SameBesideDriver s (driverTick x s) := by
  rcases driverTick_cases x s with ⟨h, -⟩ | ⟨-, -, h⟩ | ⟨-, -, h⟩ | ⟨-, -, -, h⟩ | ⟨-, -, h⟩ | ⟨-, -, h⟩ | ⟨-, -, h⟩ |
    ⟨-, -, h⟩ | ⟨-, -, -, h⟩ | ⟨-, -, h⟩ | ⟨-, -, -, h⟩ | ⟨-, -, h⟩ <;> rw [h]
  · exact .of_pins_eq rfl rfl rfl rfl rfl rfl rfl rfl
  · exact .of_setOd (o := .released) rfl rfl rfl rfl rfl rfl rfl rfl
  · exact beginByte_same _ s
  · exact endTransaction_same _ _ s
  · exact .of_setOd (o := (curCell s s.drv.bit.toNat).2) rfl rfl rfl rfl rfl rfl rfl rfl
  · exact tickBitSecond_same s
  · exact .of_pins_eq rfl rfl rfl rfl rfl rfl rfl rfl
  · exact .of_pins_eq rfl rfl rfl rfl rfl rfl rfl rfl
  · exact endTransaction_same _ _ s
  · exact slotDone_same s
  · exact endTransaction_same _ _ s
  · exact endTransaction_same _ _ s

/-! ### Inversion: what one `EngineTick` can do (R174) -/

theorem engineTick_cases (s : State) :
    (s.eng.cnt = 1#16 ∧ engineTick s =
      { s.updPin s.eng.pin.toNat (fun q => { q with out := !s.eng.lvl }) with
        eng := { s.eng with lvl := !s.eng.lvl, cnt := s.eng.half } }) ∨
    (s.eng.cnt ≠ 1#16 ∧ engineTick s = { s with eng := { s.eng with cnt := s.eng.cnt - 1#16 } }) := by
  unfold engineTick
  split <;> simp [*]

/-- `EngineTick` writes `out` of its pin and no other pin register (R174). -/
theorem engineTick_pin (s : State) (q : Nat) :
    ((engineTick s).pin q).oe = (s.pin q).oe ∧ ((engineTick s).pin q).ovr = (s.pin q).ovr ∧
    ((engineTick s).pin q).od = (s.pin q).od ∧ ((engineTick s).pin q).owner = (s.pin q).owner ∧
    (q ≠ s.eng.pin.toNat → (engineTick s).pin q = s.pin q) := by
  rcases engineTick_cases s with ⟨-, h⟩ | ⟨-, h⟩
  · rw [h]
    exact ⟨State.pin_updPin_field Pin.oe s _ q _ fun _ => rfl, State.pin_updPin_field Pin.ovr s _ q _ fun _ => rfl,
      State.pin_updPin_field Pin.od s _ q _ fun _ => rfl, State.pin_updPin_field Pin.owner s _ q _ fun _ => rfl,
      fun hq => s.pin_updPin_other _ hq⟩
  · rw [h]
    exact ⟨rfl, rfl, rfl, rfl, fun _ => rfl⟩

/-- `EngineTick` writes only `eng.lvl`, `eng.cnt` and `out` of its pin (R174): the other fields of the state. -/
theorem engineTick_same (s : State) :
    (engineTick s).cfg = s.cfg ∧ (engineTick s).padreg = s.padreg ∧ (engineTick s).txbuf = s.txbuf ∧
    (engineTick s).drv = s.drv ∧ (engineTick s).cyc = s.cyc ∧ (engineTick s).env = s.env ∧
    (engineTick s).host = s.host ∧ (engineTick s).draws = s.draws ∧ (engineTick s).rsp = s.rsp ∧
    (engineTick s).pins.length = s.pins.length := by
  rcases engineTick_cases s with ⟨-, h⟩ | ⟨-, h⟩ <;> rw [h]
  · exact ⟨rfl, rfl, rfl, rfl, rfl, rfl, rfl, rfl, rfl, List.length_modify ..⟩
  · exact ⟨rfl, rfl, rfl, rfl, rfl, rfl, rfl, rfl, rfl, rfl⟩

end Sys2Proof.Machine
end

