-- ==== Sys2Proof/Laws/Memory.lean ====
section
/-! SUPPORT. The byte store `TXBUF`: read after write, and the canonical form (spec/10_state.md R30). -/

namespace Sys2Proof.Machine

theorem Memory.read_write_same (m : List Host.Cell) (a : Nat) (v : Byte) :
    Memory.read (Memory.write m a v) a = some v := by
  induction m with
  | nil => simp [Memory.write, Memory.read]
  | cons c m ih =>
    obtain ⟨b, u⟩ := c
    simp only [Memory.write]
    split
    · simp [Memory.read]
    · split
      · simp [Memory.read]
      · simp [Memory.read, *]

theorem Memory.read_write_other (m : List Host.Cell) {a b : Nat} (v : Byte) (h : b ≠ a) :
    Memory.read (Memory.write m a v) b = Memory.read m b := by
  induction m with
  | nil => simp [Memory.write, Memory.read, h]
  | cons c m ih =>
    obtain ⟨c, u⟩ := c
    simp only [Memory.write]
    split
    · simp [Memory.read, h]
    · split
      · rename_i heq
        subst heq
        simp [Memory.read, h]
      · simp [Memory.read, ih]

/-- The first index of a store in canonical form is below every other. -/
theorem Memory.wf_cons_iff (c : Host.Cell) (m : List Host.Cell) :
    Memory.wf (c :: m) = true ↔ (∀ d ∈ m, c.1 < d.1) ∧ Memory.wf m = true := by
  induction m generalizing c with
  | nil => simp [Memory.wf]
  | cons d m ih =>
    obtain ⟨a, u⟩ := c
    obtain ⟨b, v⟩ := d
    simp only [Memory.wf, Bool.and_eq_true, decide_eq_true_eq, List.mem_cons, forall_eq_or_imp]
    constructor
    · rintro ⟨hab, hm⟩
      exact ⟨⟨hab, fun d hd => hab.trans (((ih _).1 hm).1 d hd)⟩, hm⟩
    · rintro ⟨⟨hab, _⟩, hm⟩
      exact ⟨hab, hm⟩

theorem Memory.mem_write {m : List Host.Cell} {a : Nat} {v : Byte} {c : Host.Cell}
    (h : c ∈ Memory.write m a v) : c = (a, v) ∨ c ∈ m := by
  induction m with
  | nil => simpa [Memory.write] using h
  | cons d m ih =>
    obtain ⟨b, u⟩ := d
    simp only [Memory.write] at h
    split at h
    · simpa using h
    · split at h
      · rcases List.mem_cons.1 h with h | h
        · exact .inl h
        · exact .inr (List.mem_cons_of_mem _ h)
      · rcases List.mem_cons.1 h with h | h
        · exact .inr (h ▸ List.mem_cons_self)
        · exact (ih h).imp_right (List.mem_cons_of_mem _)

/-- A write keeps the canonical form. -/
theorem Memory.wf_write {m : List Host.Cell} (h : Memory.wf m = true) (a : Nat) (v : Byte) :
    Memory.wf (Memory.write m a v) = true := by
  induction m with
  | nil => rfl
  | cons d m ih =>
    obtain ⟨b, u⟩ := d
    obtain ⟨hlt, hm⟩ := (Memory.wf_cons_iff _ _).1 h
    simp only [Memory.write]
    split
    · rename_i hab
      refine (Memory.wf_cons_iff _ _).2 ⟨?_, h⟩
      rintro d (_ | ⟨_, hd⟩)
      · exact hab
      · exact hab.trans (hlt d hd)
    · split
      · rename_i heq
        exact (Memory.wf_cons_iff _ _).2 ⟨fun d hd => heq ▸ hlt d hd, hm⟩
      · rename_i h1 h2
        refine (Memory.wf_cons_iff _ _).2 ⟨fun d hd => ?_, ih hm⟩
        rcases Memory.mem_write hd with rfl | hd
        · exact lt_of_le_of_ne (not_lt.1 h1) (Ne.symm h2)
        · exact hlt d hd

/-- The empty store is in canonical form; a finished transaction leaves it (R211, R218). -/
theorem Memory.wf_nil : Memory.wf [] = true := rfl

theorem Memory.reset_wf : Memory.wf State.reset.txbuf = true := rfl

/-- An index below every listed one reads as `none`. -/
theorem Memory.read_eq_none {m : List Host.Cell} {a : Nat} (h : ∀ c ∈ m, a < c.1) : Memory.read m a = none := by
  induction m with
  | nil => rfl
  | cons c m ih =>
    obtain ⟨b, u⟩ := c
    have hb : a < b := h _ List.mem_cons_self
    simp [Memory.read, Nat.ne_of_lt hb, ih fun d hd => h d (List.mem_cons_of_mem _ hd)]

end Sys2Proof.Machine
end

