-- ==== Sys2Proof/Laws/Pads.lean ====
section
/-! SUPPORT. Pad words: the bit set or cleared and every other bit (spec/20_memory.md R64), and the positions
of the enables (spec/00_scope.md R5). -/

namespace Sys2Proof.Machine

/-- Bit `j` of the one-bit mask. -/
theorem getLsbD_oneBit {W b j : Nat} (hb : b < W) : (1#W <<< b).getLsbD j = decide (j = b) := by
  rw [BitVec.getLsbD_shiftLeft, BitVec.getLsbD_one]
  rcases lt_trichotomy j b with h | h | h
  · simp [h, Nat.ne_of_lt h]
  · subst h
    simp [hb, Nat.zero_lt_of_lt hb]
  · have h1 : j - b ≠ 0 := by omega
    simp [h1, Nat.ne_of_gt h, not_lt.2 h.le]

theorem testBit_withBitSet {W w b : Nat} (hw : w < 2 ^ W) (hb : b < W) (j : Nat) :
    (withBitSet W w b).testBit j = if j = b then true else w.testBit j := by
  have hj : (BitVec.ofNat W w).getLsbD j = w.testBit j := by
    rw [BitVec.getLsbD_ofNat]
    by_cases h : j < W
    · simp [h]
    · simp [h, Nat.testBit_lt_two_pow (hw.trans_le (Nat.pow_le_pow_right (by omega) (not_lt.1 h)))]
  rw [withBitSet, BitVec.testBit_toNat, BitVec.getLsbD_or, hj, getLsbD_oneBit hb]
  by_cases h : j = b <;> simp [h]

theorem testBit_withBitClear {W w b : Nat} (hw : w < 2 ^ W) (hb : b < W) (j : Nat) :
    (withBitClear W w b).testBit j = if j = b then false else w.testBit j := by
  rw [withBitClear, BitVec.testBit_toNat, BitVec.getLsbD_and, BitVec.getLsbD_ofNat, BitVec.getLsbD_not,
    getLsbD_oneBit hb]
  by_cases h : j < W
  · by_cases e : j = b <;> simp [e, h]
  · have e : j ≠ b := by omega
    simp [h, e, Nat.testBit_lt_two_pow (hw.trans_le (Nat.pow_le_pow_right (by omega) (not_lt.1 h)))]

theorem withBitSet_lt (W w b : Nat) : withBitSet W w b < 2 ^ W := BitVec.isLt _

theorem withBitClear_lt (W w b : Nat) : withBitClear W w b < 2 ^ W := BitVec.isLt _

theorem State.memRead_memWrite_same (s : State) {a : Nat} (v : Nat) (h : a < s.padreg.length) :
    (s.memWrite a v).memRead a = v := by
  simp [State.memRead, h]

theorem State.memRead_memWrite_other (s : State) {a b : Nat} (v : Nat) (h : b ≠ a) :
    (s.memWrite a v).memRead b = s.memRead b := by
  simp [State.memRead, Ne.symm h]

/-- A word of the pad space is `PAD_W` bits wide. -/
theorem State.memRead_lt (s : State) (h : ∀ w ∈ s.padreg, w < 2 ^ s.cfg.padW) (a : Nat) :
    s.memRead a < 2 ^ s.cfg.padW := by
  unfold State.memRead
  cases ha : s.padreg[a]? with
  | none => exact Nat.two_pow_pos _
  | some w => exact h w (List.mem_of_getElem? ha)

/-- After `SetBit(a, b)` bit `b` of word `a` is 1 and every other bit of every word is as before. -/
theorem State.padBit_setBit (s : State) {a b : Nat} (hw : ∀ w ∈ s.padreg, w < 2 ^ s.cfg.padW)
    (ha : a < s.padreg.length) (hb : b < s.cfg.padW) (c j : Nat) :
    (s.setBit a b).padBit c j = if c = a ∧ j = b then true else s.padBit c j := by
  unfold State.padBit State.setBit
  by_cases hc : c = a
  · subst hc
    rw [s.memRead_memWrite_same _ ha, testBit_withBitSet (s.memRead_lt hw _) hb]
    simp
  · rw [s.memRead_memWrite_other _ hc]
    simp [hc]

/-- After `ClrBit(a, b)` bit `b` of word `a` is 0 and every other bit of every word is as before. -/
theorem State.padBit_clrBit (s : State) {a b : Nat} (hw : ∀ w ∈ s.padreg, w < 2 ^ s.cfg.padW)
    (ha : a < s.padreg.length) (hb : b < s.cfg.padW) (c j : Nat) :
    (s.clrBit a b).padBit c j = if c = a ∧ j = b then false else s.padBit c j := by
  unfold State.padBit State.clrBit
  by_cases hc : c = a
  · subst hc
    rw [s.memRead_memWrite_same _ ha, testBit_withBitClear (s.memRead_lt hw _) hb]
    simp
  · rw [s.memRead_memWrite_other _ hc]
    simp [hc]

/-- A word that is put in place of another keeps the words' width. -/
theorem memWrite_wordWidth (s : State) {W : Nat} (hw : ∀ w ∈ s.padreg, w < 2 ^ W) {a v : Nat} (hv : v < 2 ^ W) :
    ∀ w ∈ (s.memWrite a v).padreg, w < 2 ^ W := by
  intro w h
  rcases List.mem_or_eq_of_mem_set h with h | rfl
  · exact hw w h
  · exact hv

/-! ### Positions (R5) -/

theorem pairwiseDistinct_iff_nodup (l : List (Nat × Nat)) : pairwiseDistinct l = true ↔ l.Nodup := by
  induction l with
  | nil => simp [pairwiseDistinct]
  | cons x xs ih => simp [pairwiseDistinct, ih]

/-- What a legal configuration says of the pads. -/
theorem legal_pads {c : Cfg} (h : Cfg.legal c = true) :
    1 ≤ c.nPads ∧ c.nPads ≤ 256 ∧ 2 ≤ c.padW ∧ 1 ≤ c.nWords ∧
    (∀ q ∈ c.pads, q.word < c.nWords ∧ q.pueBit < c.padW ∧ q.pdeBit < c.padW) ∧ (Cfg.bitPositions c).Nodup ∧
    ∀ w ∈ c.padReset, w < 2 ^ c.padW := by
  simp only [Cfg.legal, Cfg.padsLegal, Bool.and_eq_true, decide_eq_true_eq, List.all_eq_true,
    pairwiseDistinct_iff_nodup] at h
  obtain ⟨⟨⟨⟨⟨⟨⟨h1, h2⟩, h3⟩, h4⟩, h5⟩, h6⟩, h7⟩, -⟩ := h
  exact ⟨h1, h2, h3, h4, fun q hq => ⟨(h5 q hq).1.1, (h5 q hq).1.2, (h5 q hq).2⟩, h6, h7⟩

/-- What a legal configuration says of the bus. -/
theorem legal_bus {c : Cfg} (h : Cfg.legal c = true) :
    c.busGrp < 4 ∧ c.busPin < 256 ∧ c.tStart ≠ 0 ∧ c.tHalf ≠ 0 ∧ c.tTimeout ≠ 0 ∧ c.bitOrder = .msbFirst ∧
    c.cell0 ≠ c.cell1 ∧ c.ackLevel = false ∧ c.maxData ≤ 255 := by
  simp only [Cfg.legal, Cfg.busLegal, Bool.and_eq_true, decide_eq_true_eq, Bool.not_eq_true'] at h
  obtain ⟨-, ⟨⟨⟨⟨⟨⟨⟨h1, h2⟩, h3⟩, h4⟩, h5⟩, h6⟩, h7⟩, h8⟩, h9⟩ := h
  exact ⟨h1, h2, h3, h4, h5, h6, h7, h8, h9⟩

/-- The positions of a supported pad stand in its row of the table. -/
theorem padPos_mem {c : Cfg} {i : Nat} (h : i < c.nPads) : padPos c i ∈ c.pads := by
  simp [padPos, List.getElem?_eq_getElem (show i < c.pads.length from h)]

theorem padWordOf_lt {c : Cfg} (hc : Cfg.legal c = true) {i : Nat} (h : i < c.nPads) : padWordOf c i < c.nWords :=
  ((legal_pads hc).2.2.2.2.1 _ (padPos_mem h)).1

theorem pueBitOf_lt {c : Cfg} (hc : Cfg.legal c = true) {i : Nat} (h : i < c.nPads) : pueBitOf c i < c.padW :=
  ((legal_pads hc).2.2.2.2.1 _ (padPos_mem h)).2.1

theorem pdeBitOf_lt {c : Cfg} (hc : Cfg.legal c = true) {i : Nat} (h : i < c.nPads) : pdeBitOf c i < c.padW :=
  ((legal_pads hc).2.2.2.2.1 _ (padPos_mem h)).2.2

/-- Positions as the list of their two kinds: `2 i` is pad `i`'s pull-up enable, `2 i + 1` its pull-down enable. -/
theorem bitPositions_getElem? (ps : List PadPos) (i : Nat) (h : i < ps.length) :
    (ps.flatMap fun q => [(q.word, q.pueBit), (q.word, q.pdeBit)])[2 * i]? = some (ps[i].word, ps[i].pueBit) ∧
    (ps.flatMap fun q => [(q.word, q.pueBit), (q.word, q.pdeBit)])[2 * i + 1]? = some (ps[i].word, ps[i].pdeBit) := by
  induction ps generalizing i with
  | nil => simp at h
  | cons q ps ih =>
    cases i with
    | zero => simp
    | succ i =>
      have := ih i (by simpa using h)
      simpa [Nat.mul_add] using this

/-- No two enables share a position: pads' pull-ups are distinct from each other and from every pull-down (R5). -/
theorem positions_distinct {c : Cfg} (hc : Cfg.legal c = true) {i j : Nat} (hi : i < c.nPads) (hj : j < c.nPads) :
    (i ≠ j → (padWordOf c i, pueBitOf c i) ≠ (padWordOf c j, pueBitOf c j)) ∧
    (i ≠ j → (padWordOf c i, pdeBitOf c i) ≠ (padWordOf c j, pdeBitOf c j)) ∧
    (padWordOf c i, pueBitOf c i) ≠ (padWordOf c j, pdeBitOf c j) := by
  have hn := (legal_pads hc).2.2.2.2.2.1
  have pos : ∀ k, k < c.nPads →
      (Cfg.bitPositions c)[2 * k]? = some (padWordOf c k, pueBitOf c k) ∧
      (Cfg.bitPositions c)[2 * k + 1]? = some (padWordOf c k, pdeBitOf c k) := by
    intro k (hk : k < c.pads.length)
    have e : padPos c k = c.pads[k] := by simp [padPos, List.getElem?_eq_getElem hk]
    rw [padWordOf, pueBitOf, pdeBitOf, e]
    exact bitPositions_getElem? c.pads k hk
  have inj : ∀ (a b : Nat) (x y : Nat × Nat), (Cfg.bitPositions c)[a]? = some x →
      (Cfg.bitPositions c)[b]? = some y → a ≠ b → x ≠ y := by
    rintro a b x _ ha hb hab rfl
    obtain ⟨la, ea⟩ := List.getElem?_eq_some_iff.1 ha
    obtain ⟨lb, eb⟩ := List.getElem?_eq_some_iff.1 hb
    exact hab ((List.Nodup.getElem_inj_iff hn).1 (ea.trans eb.symm))
  exact ⟨fun h => inj _ _ _ _ (pos i hi).1 (pos j hj).1 (by omega), fun h => inj _ _ _ _ (pos i hi).2 (pos j hj).2 (by omega),
    inj _ _ _ _ (pos i hi).1 (pos j hj).2 (by omega)⟩

end Sys2Proof.Machine
end

