-- ==== Sys2Proof/Laws/PerInstr.lean ====
section
/-! SUPPORT. What holds of every operation as syntax, one lemma for each constructor. Family `RowOfEncoding`: the
encoded word has the operation's `OPC` and zero in `RSV` (spec/30_encoding.md R91, R92). -/

namespace Sys2Proof

/-- The `OPC` of an operation (R92). -/
def opcOf : Instr → BitVec 4
  | .getPullUp _ _ => 0
  | .setPullUp _ _ _ => 1
  | .getPullDown _ _ => 2
  | .setPullDown _ _ _ => 3
  | .acquire _ _ => 4
  | .release _ => 5
  | .driveLow _ => 6
  | .read _ => 7
  | .configure _ _ => 8
  | .start _ => 9
  | .stop _ => 10
  | .transact _ _ _ => 11
  | .wrbuf _ _ => 12

namespace Laws

/-- The fields of a word built from its fields (R91). -/
theorem fields_wordOf (o : BitVec 4) (g : BitVec 2) (x : BitVec 8) (m : Half) :
    fieldOpc (wordOf o g x m) = o ∧ fieldGrp (wordOf o g x m) = g ∧ fieldRsv (wordOf o g x m) = 0 ∧
    fieldIdx (wordOf o g x m) = x ∧ fieldImm (wordOf o g x m) = m := by
  refine ⟨?_, ?_, ?_, ?_, ?_⟩ <;>
  · apply BitVec.eq_of_getLsbD_eq
    intro i hi
    simp only [fieldOpc, fieldGrp, fieldRsv, fieldIdx, fieldImm, wordOf, BitVec.getLsbD_extractLsb',
      BitVec.getLsbD_append]
    interval_cases i <;> simp

namespace RowOfEncoding

/-- The encoded word carries the operation's code, and its reserved field is zero. -/
def Statement (i : Instr) : Prop := fieldOpc (encode i) = opcOf i ∧ fieldRsv (encode i) = 0

theorem getPullUp (g i : Nat) : Statement (.getPullUp g i) := ⟨(fields_wordOf ..).1, (fields_wordOf ..).2.2.1⟩
theorem setPullUp (g i : Nat) (e : Bool) : Statement (.setPullUp g i e) :=
  ⟨(fields_wordOf ..).1, (fields_wordOf ..).2.2.1⟩
theorem getPullDown (g i : Nat) : Statement (.getPullDown g i) := ⟨(fields_wordOf ..).1, (fields_wordOf ..).2.2.1⟩
theorem setPullDown (g i : Nat) (e : Bool) : Statement (.setPullDown g i e) :=
  ⟨(fields_wordOf ..).1, (fields_wordOf ..).2.2.1⟩
theorem acquire (g p : Nat) : Statement (.acquire g p) := ⟨(fields_wordOf ..).1, (fields_wordOf ..).2.2.1⟩
theorem release (p : Nat) : Statement (.release p) := ⟨(fields_wordOf ..).1, (fields_wordOf ..).2.2.1⟩
theorem driveLow (p : Nat) : Statement (.driveLow p) := ⟨(fields_wordOf ..).1, (fields_wordOf ..).2.2.1⟩
theorem read (p : Nat) : Statement (.read p) := ⟨(fields_wordOf ..).1, (fields_wordOf ..).2.2.1⟩
theorem configure (p half : Nat) : Statement (.configure p half) := ⟨(fields_wordOf ..).1, (fields_wordOf ..).2.2.1⟩
theorem start (h : Nat) : Statement (.start h) := ⟨(fields_wordOf ..).1, (fields_wordOf ..).2.2.1⟩
theorem stop (h : Nat) : Statement (.stop h) := ⟨(fields_wordOf ..).1, (fields_wordOf ..).2.2.1⟩
theorem transact (sel cmd : Byte) (n : Nat) : Statement (.transact sel cmd n) :=
  ⟨(fields_wordOf ..).1, (fields_wordOf ..).2.2.1⟩
theorem wrbuf (k : Nat) (byte : Byte) : Statement (.wrbuf k byte) := ⟨(fields_wordOf ..).1, (fields_wordOf ..).2.2.1⟩

end RowOfEncoding

end Laws

end Sys2Proof
end

