-- ==== Sys2Proof/Laws/Step.lean ====
section
/-! SUPPORT. Inversion of the step and of the operations: what each can do when it answers a next state
(spec/10_state.md R41, R42; spec/60_exceptions.md R267). -/

namespace Sys2Proof.Machine

/-! ### Raising and returning -/

@[simp] theorem raise_eq_next {e : Status} {s t : State} : raise e s = .next t ↔ t = s.respond (statusOnly e) := by
  simp [raise, eq_comm]

@[simp] theorem returnOk_eq_next {s t : State} : returnOk s = .next t ↔ t = s.respond (statusOnly .ok) := by
  simp [returnOk, eq_comm]

/-! ### Which agent moves -/

theorem State.move_accept_iff {s : State} {w : Word} :
    s.move = .accept w ↔ s.rst = false ∧ s.drv.busy = false ∧ ∃ rest, s.host = .request w :: rest := by
  unfold State.move
  cases hr : s.rst <;> simp
  rcases hh : s.host with _ | ⟨_ | _, rest⟩
  · simp
  · cases hb : s.drv.busy <;> simp
  · simp

theorem State.move_reset_iff {s : State} : s.move = .resetCycle ↔ s.rst = true := by
  unfold State.move
  cases hr : s.rst <;> simp
  rcases hh : s.host with _ | ⟨_ | _, rest⟩
  · simp
  · cases hb : s.drv.busy <;> simp
  · simp

theorem State.move_clock_iff {s : State} :
    s.move = .clockCycle ↔ s.rst = false ∧ (s.drv.busy = true ∨ ∀ w rest, s.host ≠ .request w :: rest) := by
  unfold State.move
  cases hr : s.rst <;> simp
  rcases hh : s.host with _ | ⟨_ | _, rest⟩
  · simp
  · cases hb : s.drv.busy <;> simp
  · simp

/-- What one step can do: a reset cycle, a clock cycle, an operation, or the refusal of a reserved word. -/
theorem step_cases {s t : State} (h : step s = .next t) :
    Cfg.legal s.cfg = true ∧
    ((s.rst = true ∧ t = resetTick s) ∨ (s.move = .clockCycle ∧ t = tick s) ∨
     (∃ w i, s.move = .accept w ∧ decode w = some i ∧ exec i s.taken = .next t) ∨
     (∃ w, s.move = .accept w ∧ decode w = none ∧ t = s.taken.respond (statusOnly .refused))) := by
  unfold step at h
  split at h
  · rename_i hl
    refine ⟨hl, ?_⟩
    split at h
    · rename_i hm
      cases h
      exact .inl ⟨State.move_reset_iff.1 hm, rfl⟩
    · rename_i hm
      cases h
      exact .inr (.inl ⟨hm, rfl⟩)
    · rename_i w hm
      split at h
      · rename_i i hi
        exact .inr (.inr (.inl ⟨w, i, hm, hi, h⟩))
      · rename_i hn
        exact .inr (.inr (.inr ⟨w, hm, hn, raise_eq_next.1 h⟩))
  · cases h

/-! ### What each operation can do -/

theorem acquireError_none_iff {s : State} {g p : Nat} :
    acquireError s g p = none ↔ supported s.cfg g p = true ∧ (s.pin p).owner = .nobody := by
  unfold acquireError
  cases supported s.cfg g p <;> simp
  cases (s.pin p).owner <;> simp

theorem acquireError_some {s : State} {g p : Nat} {e : Status} (h : acquireError s g p = some e) :
    (supported s.cfg g p = false ∧ e = .pinConfigurationFailed) ∨
    (supported s.cfg g p = true ∧ (s.pin p).owner = .engine ∧ e = .pinAlreadyOwned) ∨
    (supported s.cfg g p = true ∧ (s.pin p).owner = .emulator ∧ e = .refused) := by
  unfold acquireError at h
  cases hs : supported s.cfg g p <;> simp [hs] at h ⊢
  · exact h.symm
  · cases ho : (s.pin p).owner <;> simp [ho] at h ⊢ <;> exact h.symm

theorem execAcquire_cases {g p : Nat} {s t : State} (h : execAcquire g p s = .next t) :
    (∃ e, acquireError s g p = some e ∧ t = s.respond (statusOnly e)) ∨
    (acquireError s g p = none ∧ t = (acquirePin s p).respond (statusOnly .ok)) := by
  unfold execAcquire at h
  split at h
  · rename_i e he
    exact .inl ⟨e, he, raise_eq_next.1 h⟩
  · rename_i he
    exact .inr ⟨he, returnOk_eq_next.1 h⟩

theorem execConfigure_cases {p half : Nat} {s t : State} (h : execConfigure p half s = .next t) :
    ((s.eng.run = true ∨ s.cfg.nPads ≤ p ∨ half = 0) ∧ t = s.respond (statusOnly .refused)) ∨
    (s.eng.run = false ∧ p < s.cfg.nPads ∧ half ≠ 0 ∧
      t = { s with eng := { s.eng with cfgd := true, pin := BitVec.ofNat 8 p, half := BitVec.ofNat 16 half },
                   rsp := some (okHandle 0#8) }) := by
  unfold execConfigure at h
  split at h
  · exact .inl ⟨.inl ‹_›, raise_eq_next.1 h⟩
  rename_i hr
  split at h
  · exact .inl ⟨.inr (.inl ‹_›), raise_eq_next.1 h⟩
  rename_i hp
  split at h
  · exact .inl ⟨.inr (.inr ‹_›), raise_eq_next.1 h⟩
  · cases h
    exact .inr ⟨by simpa using hr, not_le.1 hp, ‹_›, rfl⟩

theorem execStart_cases {k : Nat} {s t : State} (h : execStart k s = .next t) :
    ((k ≠ 0 ∨ s.eng.cfgd = false ∨ s.eng.run = true) ∧ t = s.respond (statusOnly .refused)) ∨
    (k = 0 ∧ s.eng.cfgd = true ∧ s.eng.run = false ∧
      (((s.pin s.eng.pin.toNat).owner = .emulator ∧ t = s.respond (statusOnly .pinAlreadyOwned)) ∨
       ((s.pin s.eng.pin.toNat).owner ≠ .emulator ∧ t = (startEngine s).respond (statusOnly .ok)))) := by
  unfold execStart at h
  split at h
  · rename_i hc
    exact .inl ⟨by simpa [or_assoc] using hc, raise_eq_next.1 h⟩
  · rename_i hc
    simp only [Bool.or_eq_true, Bool.not_eq_true', decide_eq_false_iff_not, not_or, not_not,
      Bool.not_eq_false, Bool.not_eq_true] at hc
    obtain ⟨⟨h1, h2⟩, h3⟩ := hc
    refine .inr ⟨h1, h2, h3, ?_⟩
    split at h
    · exact .inl ⟨‹_›, raise_eq_next.1 h⟩
    · exact .inr ⟨‹_›, returnOk_eq_next.1 h⟩

theorem execStop_cases {k : Nat} {s t : State} (h : execStop k s = .next t) :
    (k ≠ 0 ∧ t = s.respond (statusOnly .refused)) ∨
    (k = 0 ∧ s.eng.run = false ∧ t = s.respond (statusOnly .ok)) ∨
    (k = 0 ∧ s.eng.run = true ∧ t = (stopEngine s).respond (statusOnly .ok)) := by
  unfold execStop at h
  split at h
  · exact .inl ⟨‹_›, raise_eq_next.1 h⟩
  · rename_i hk
    split at h
    · rename_i hr
      exact .inr (.inl ⟨not_not.1 hk, by simpa using hr, returnOk_eq_next.1 h⟩)
    · rename_i hr
      exact .inr (.inr ⟨not_not.1 hk, by simpa using hr, returnOk_eq_next.1 h⟩)

theorem execTransact_cases {sel cmd : Byte} {n : Nat} {s t : State} (h : execTransact sel cmd n s = .next t) :
    (transactRefused s n = true ∧ t = s.respond (statusOnly .refused)) ∨
    (transactRefused s n = false ∧ needsAcquire s = true ∧
      ((∃ e, acquireError s s.cfg.busGrp s.cfg.busPin = some e ∧ t = s.respond (statusOnly e)) ∨
       (acquireError s s.cfg.busGrp s.cfg.busPin = none ∧
         t = startTransaction sel cmd n (acquirePin s s.cfg.busPin)))) ∨
    (transactRefused s n = false ∧ needsAcquire s = false ∧ t = startTransaction sel cmd n s) := by
  unfold execTransact at h
  split at h
  · exact .inl ⟨‹_›, raise_eq_next.1 h⟩
  · rename_i hr
    split at h
    · rename_i ha
      refine .inr (.inl ⟨by simpa using hr, ha, ?_⟩)
      split at h
      · rename_i e he
        exact .inl ⟨e, he, raise_eq_next.1 h⟩
      · rename_i he
        cases h
        exact .inr ⟨he, rfl⟩
    · rename_i ha
      cases h
      exact .inr (.inr ⟨by simpa using hr, by simpa using ha, rfl⟩)

/-- The request check of `transact` passes exactly when the count fits and every named entry is written (R202). -/
theorem transactRefused_false_iff {s : State} {n : Nat} :
    transactRefused s n = false ↔ n ≤ s.cfg.maxData ∧ ∀ k < n, (Memory.read s.txbuf k).isSome = true := by
  simp [transactRefused, Option.isSome_iff_ne_none]

end Sys2Proof.Machine
end

