-- ==== Sys2Proof/Tests/Slice0.lean ====
section
/-! SUPPORT. The model's own tests: ill-formed terms, words written out from spec/30_encoding.md, vectors of
spec/95_test_vectors.md (each named in its comment), and, for every obligation with hypotheses, a state and
operands that meet them. -/

namespace Sys2Proof.Machine.Tests

/-! ### Well-formedness: an ill-formed term for each check -/

theorem test_group_4_is_ill_formed : ¬ WellFormed (.getPullUp 4 0) ∧ ¬ WellFormed (.setPullUp 4 0 true) ∧
    ¬ WellFormed (.getPullDown 4 0) ∧ ¬ WellFormed (.setPullDown 4 0 true) ∧ ¬ WellFormed (.acquire 4 0) := by
  decide

theorem test_index_256_is_ill_formed : ¬ WellFormed (.getPullUp 0 256) ∧ ¬ WellFormed (.setPullUp 0 256 true) ∧
    ¬ WellFormed (.getPullDown 0 256) ∧ ¬ WellFormed (.setPullDown 0 256 true) ∧ ¬ WellFormed (.acquire 0 256) ∧
    ¬ WellFormed (.release 256) ∧ ¬ WellFormed (.driveLow 256) ∧ ¬ WellFormed (.read 256) ∧
    ¬ WellFormed (.configure 256 1) ∧ ¬ WellFormed (.start 256) ∧ ¬ WellFormed (.stop 256) ∧
    ¬ WellFormed (.transact 0#8 0#8 256) ∧ ¬ WellFormed (.wrbuf 256 0#8) := by decide

theorem test_half_period_65536_is_ill_formed : ¬ WellFormed (.configure 0 65536) := by decide

/-! ### Decoding: words written out field by field from R91 and R92, `OPC GRP RSV IDX IMM` -/

theorem test_decode_get_pull_up : decode 0b0000_01_00_00000101_0000000000000000#32 = some (.getPullUp 1 5) := by decide
theorem test_decode_set_pull_up :
    decode 0b0001_00_00_00000010_0000000000000001#32 = some (.setPullUp 0 2 true) ∧
    decode 0b0001_10_00_00000010_0000000000000000#32 = some (.setPullUp 2 2 false) := by decide
theorem test_decode_get_pull_down :
    decode 0b0010_11_00_00011101_0000000000000000#32 = some (.getPullDown 3 29) := by decide
theorem test_decode_set_pull_down :
    decode 0b0011_00_00_00011110_0000000000000001#32 = some (.setPullDown 0 30 true) := by decide
theorem test_decode_acquire : decode 0b0100_01_00_00000101_0000000000000000#32 = some (.acquire 1 5) := by decide
theorem test_decode_release : decode 0b0101_00_00_10000010_0000000000000000#32 = some (.release 130) := by decide
theorem test_decode_drive_low : decode 0b0110_00_00_00000010_0000000000000000#32 = some (.driveLow 2) := by decide
theorem test_decode_read : decode 0b0111_00_00_00000010_0000000000000000#32 = some (.read 2) := by decide
theorem test_decode_configure :
    decode 0b1000_00_00_00001010_0000001111101000#32 = some (.configure 10 1000) := by decide
theorem test_decode_start : decode 0b1001_00_00_00000001_0000000000000000#32 = some (.start 1) := by decide
theorem test_decode_stop : decode 0b1010_00_00_00000000_0000000000000000#32 = some (.stop 0) := by decide
theorem test_decode_transact :
    decode 0b1011_00_00_00000100_1010000101101100#32 = some (.transact 0xA1#8 0x6C#8 4) := by decide
theorem test_decode_wrbuf :
    decode 0b1100_00_00_00000011_0000000010101101#32 = some (.wrbuf 3 0xAD#8) := by decide

/-- V-DEC-1 to V-DEC-8: reserved words. -/
theorem test_reserved_words : decode 0xD0000000#32 = none ∧ decode 0xE0000000#32 = none ∧
    decode 0xF0000000#32 = none ∧ decode 0xFFFFFFFF#32 = none ∧ decode 0x00020001#32 = none ∧
    decode 0x01020000#32 = none ∧ decode 0x02020000#32 = none ∧ decode 0x10020003#32 = none ∧
    decode 0x54020000#32 = none ∧ decode 0x90000001#32 = none ∧ decode 0xC0000100#32 = none ∧
    decode 0xB400A103#32 = none := by decide

/-- V-DEC-9 to V-DEC-13: words that decode and that their operation rejects; the all-zero word. -/
theorem test_decodes_though_rejected : decode 0x0C1D0000#32 = some (.getPullUp 3 29) ∧
    decode 0x90010000#32 = some (.start 1) ∧ decode 0xB011A16C#32 = some (.transact 0xA1#8 0x6C#8 17) ∧
    decode 0x800A0000#32 = some (.configure 10 0) ∧ decode 0x00000000#32 = some (.getPullUp 0 0) := by decide

/-- V-ENC-2, V-ENC-5, V-ENC-7, V-ENC-9, V-ENC-10. -/
theorem test_encode_worked_words : encode (.setPullUp 0 2 true) = 0x10020001#32 ∧
    encode (.acquire 1 5) = 0x44050000#32 ∧ encode (.configure 10 65535) = 0x800AFFFF#32 ∧
    encode (.transact 0xA1#8 0x6C#8 4) = 0xB004A16C#32 ∧ encode (.wrbuf 15 0xFF#8) = 0xC00F00FF#32 := by decide

theorem test_table_word : decodeTableWord 32 0x70020000 = some (.read 2) ∧ decodeTableWord 33 0x70020000 = none := by
  decide

/-! ### Small states at the reference configuration -/

/-- The next state of an outcome. -/
def next? (o : Host.Outcome State Fault Refusal) : Option State :=
  match o with
  | .next t => some t
  | .fault _ => none
  | .refused _ => none

/-- Reset, pins not pulled by anyone in the current cycle. -/
def quiet : State := { State.reset with env := [⟨[], false⟩] }

/-- Reset with pad word 2 as given. -/
def padded (w : Nat) : State := { quiet with padreg := quiet.padreg.set 2 w }

/-- An acquired pin holding `o`. -/
def acquiredPin (o : Od) : Pin :=
  { ovr := true, oe := decide (o = .drivenLow), out := false, owner := .emulator, od := some o }

/-- The engine's pin at level `lvl`. -/
def enginePin (lvl : Bool) : Pin := { ovr := false, oe := true, out := lvl, owner := .engine, od := none }

/-- Pin 2 acquired, holding `o`, with its pull-up enabled. -/
def held (o : Od) : State := { padded 0x5A with pins := quiet.pins.set 2 (acquiredPin o) }

/-- The engine on pin 5 with half-period 3. -/
def engineOn (lvl : Bool) (cnt : BitVec 16) : State :=
  { quiet with pins := quiet.pins.set 5 (enginePin lvl)
               eng := { cfgd := true, pin := 5#8, half := 3#16, run := true, cnt := cnt, lvl := lvl } }

/-! ### Operations: vectors of spec/95_test_vectors.md -/

theorem test_ref_is_legal : Cfg.legal Config.ref = true := by decide

/-- V-PAD-2, V-PAD-6. -/
theorem test_get_pull_up :
    (next? (exec (.getPullUp 0 2) (padded 0x5A))).map State.rsp = some (some 0x00000001#32) ∧
    (next? (exec (.getPullUp 1 0) quiet)).map State.rsp = some (some 0x10000000#32) := by decide

/-- V-PAD-1, V-PAD-5, V-PAD-12. -/
theorem test_set_pull_up :
    (next? (exec (.setPullUp 0 2 true) (padded 0x52))).map (fun t => t.memRead 2) = some 0x5A ∧
    (next? (exec (.setPullUp 0 2 false) (padded 0x5A))).map (fun t => t.memRead 2) = some 0x52 ∧
    (next? (exec (.setPullUp 0 2 false) (padded 0xFFFFFFFF))).map (fun t => t.memRead 2) = some 0xFFFFFFF7 := by
  decide

/-- V-PAD-3, V-PAD-9. -/
theorem test_get_pull_down :
    (next? (exec (.getPullDown 0 2) (padded 0x5A))).map State.rsp = some (some 0x00000000#32) ∧
    (next? (exec (.getPullDown 0 2) (padded 0x56))).map State.rsp = some (some 0x00000001#32) ∧
    (next? (exec (.getPullDown 2 2) quiet)).map State.rsp = some (some 0x10000000#32) := by decide

/-- V-PAD-10, V-PAD-11, V-PAD-7. -/
theorem test_set_pull_down :
    (next? (exec (.setPullDown 0 2 true) (padded 0x52))).map (fun t => t.memRead 2) = some 0x56 ∧
    (next? (exec (.setPullDown 0 2 false) (padded 0x56))).map (fun t => t.memRead 2) = some 0x52 ∧
    next? (exec (.setPullDown 0 30 true) quiet) = some { quiet with rsp := some 0x10000000#32 } := by decide

/-- V-OD-2, V-OD-9, V-OD-12. -/
theorem test_acquire :
    (next? (exec (.acquire 0 2) quiet)).map (fun t => (t.memRead 2, t.pin 2, t.line 2)) =
      some (0x5A, acquiredPin .released, .high) ∧
    next? (exec (.acquire 0 2) (held .released)) = some { held .released with rsp := some 0x70000000#32 } ∧
    next? (exec (.acquire 1 5) quiet) = some { quiet with rsp := some 0x20000000#32 } := by decide

/-- V-OD-6, V-OD-10. -/
theorem test_release :
    (next? (exec (.release 2) (held .drivenLow))).map (fun t => (t.pin 2, t.line 2)) =
      some (acquiredPin .released, .high) ∧
    (next? (exec (.release 3) quiet)).map State.rsp = some (some 0x70000000#32) := by decide

/-- V-OD-3, V-OD-11. -/
theorem test_drive_low :
    (next? (exec (.driveLow 2) (held .released))).map (fun t => (t.pin 2, t.line 2)) =
      some (acquiredPin .drivenLow, .low) ∧
    (next? (exec (.driveLow 30) quiet)).map State.rsp = some (some 0x70000000#32) := by decide

/-- V-OD-7, V-OD-8, V-OD-4. -/
theorem test_read :
    (next? (exec (.read 2) (held .released))).map State.rsp = some (some 0x00000001#32) ∧
    (next? (exec (.read 2) { held .released with env := [⟨[2], false⟩] })).map State.rsp =
      some (some 0x00000000#32) ∧
    (next? (exec (.read 2) (held .drivenLow))).map State.rsp = some (some 0x70000000#32) := by decide

/-- V-ENG-5, V-ENG-3, V-ENG-10. -/
theorem test_configure :
    (next? (exec (.configure 5 3) quiet)).map (fun t => (t.eng, t.rsp)) =
      some ({ cfgd := true, pin := 5#8, half := 3#16, run := false, cnt := 0#16, lvl := false }, some 0#32) ∧
    (next? (exec (.configure 10 0) quiet)).map State.rsp = some (some 0x70000000#32) ∧
    (next? (exec (.configure 6 9) (engineOn true 2#16))).map State.rsp = some (some 0x70000000#32) := by decide

/-- V-ENG-7, V-ENG-1. -/
theorem test_start :
    (next? (exec (.start 0) { quiet with eng := { Engine.atReset with cfgd := true, pin := 5#8, half := 3#16 } })).map
      (fun t => (t.eng.run, t.eng.lvl, t.eng.cnt, t.pin 5)) = some (true, true, 3#16, enginePin true) ∧
    (next? (exec (.start 0) quiet)).map State.rsp = some (some 0x70000000#32) := by decide

/-- V-ENG-11, V-ENG-2. -/
theorem test_stop :
    (next? (exec (.stop 0) (engineOn true 2#16))).map (fun t => (t.eng, t.pin 5)) =
      some ({ cfgd := true, pin := 5#8, half := 3#16, run := false, cnt := 0#16, lvl := false }, Pin.atReset) ∧
    next? (exec (.stop 0) quiet) = some { quiet with rsp := some 0#32 } := by decide

/-- V-DRV-2, V-DRV-1. -/
theorem test_wrbuf :
    (next? (exec (.wrbuf 15 0xFF#8) quiet)).map (fun t => Memory.read t.txbuf 15) = some (some 0xFF#8) ∧
    next? (exec (.wrbuf 16 0x01#8) quiet) = some { quiet with rsp := some 0x70000000#32 } := by decide

/-- Program A, cycle 0 (R204); V-DRV-4. -/
theorem test_transact :
    (next? (exec (.transact 0xA1#8 0x03#8 0) quiet)).map
      (fun t => (t.pin 2, t.memRead 2, t.drv.state, t.drv.cnt, t.rsp)) =
      some (acquiredPin .drivenLow, 0x5A, .startCondition, 16#32, none) ∧
    next? (exec (.transact 0xA1#8 0x6C#8 1) quiet) = some { quiet with rsp := some 0x70000000#32 } := by decide

/-! ### Ticks -/

/-- V-ENG-8: the count 1 toggles and reloads. -/
theorem test_engine_tick : (tick (engineOn true 1#16)).line 5 = .low ∧ (tick (engineOn true 1#16)).eng.cnt = 3#16 ∧
    (tick (engineOn true 2#16)).eng.lvl = true := by decide

/-- V-ENG-15: contention of the engine's high level with another participant has no level; with the engine's
low level the line is low. -/
theorem test_contention : { engineOn true 1#16 with env := [⟨[5], false⟩] }.line 5 = .unspecified ∧
    { engineOn false 1#16 with env := [⟨[5], false⟩] }.line 5 = .low := by decide

/-- V-OD-14: a released pin with both pulls on floats at no specified level. -/
theorem test_both_pulls : { held .released with padreg := quiet.padreg.set 2 0x5E }.line 2 = .unspecified := by decide

/-! ### The hypotheses of the obligations can be met -/

/-- Two pads in one 4-bit word, the bus on pin 0, short times, two data bytes. -/
def tiny : Cfg :=
  { Config.ref with padW := 4, pads := [⟨0, 3, 2⟩, ⟨0, 1, 0⟩], padReset := [2], busPin := 0, tStart := 2#32,
                    tHalf := 1#32, tAckDelay := 1#32, tTimeout := 2#32, tStandby := 1#32, maxData := 2 }

/-- `tiny` right after reset, pad 0 pulled up, nobody pulling low. -/
def idle : State := { State.launch tiny [8] with env := [⟨[], false⟩] }

/-- Pin 0, the bus pin, acquired and holding `o`. -/
def holding (o : Od) : State := { idle with pins := [acquiredPin o, Pin.atReset] }

/-- The engine configured on pin `p`, half-period 2, stopped. -/
def ready (p : BitVec 8) : State := { idle with eng := { Engine.atReset with cfgd := true, pin := p, half := 2#16 } }

/-- The engine configured on the acquired pin 0. -/
def readyOnAcquired : State := { ready 0#8 with pins := [acquiredPin .released, Pin.atReset] }

/-- The engine running on pin 1, `cnt` cycles to go. -/
def toggling (cnt : BitVec 16) : State :=
  { idle with pins := [Pin.atReset, enginePin true]
              eng := { cfgd := true, pin := 1#8, half := 2#16, run := true, cnt := cnt, lvl := true } }

/-- The engine running on the bus pin. -/
def togglingOnBus : State :=
  { idle with pins := [enginePin true, Pin.atReset]
              eng := { cfgd := true, pin := 0#8, half := 2#16, run := true, cnt := 2#16, lvl := true } }

/-- The bytes `A1`, `03`, `5A`, the first `m` of them. -/
def sent (m : Nat) : List Byte := [0xA1#8, 0x03#8, 0x5A#8].take m

/-- A transaction with one data byte, at the given place; `pulled` says whether the device pulls the bus low. -/
def running (st : DrvState) (sp : DrvStep) (o : Od) (byte : BitVec 9) (bit : BitVec 4) (cnt : BitVec 32) (m : Nat)
    (pulled : Bool) : State :=
  { holding o with
    env := [⟨if pulled then [0] else [], false⟩]
    txbuf := [(0, 0x5A#8)]
    drv := { sel := 0xA1#8, cmd := 0x03#8, n := 1#8, crc := crcRun tiny (sent m), byte := byte, bit := bit, err := .ok,
             busy := true, state := st, step := sp, cnt := cnt } }

/-- The same, when the `transact` has just been accepted. -/
def started : State := running .startCondition .startLow .drivenLow 0#9 0#4 2#32 0 false

/-- A wait after the start pulse. -/
def rising (cnt : BitVec 32) (pulled : Bool) : State :=
  running .startCondition .startRise .released 0#9 0#4 cnt 0 pulled

/-- The first cycle of the first cell of the device-select byte (its bit 7 is 1: `Released`). -/
def firstCell : State := running .addressPhase .bitFirst .released 0#9 0#4 1#32 0 false

/-- A wait for the acknowledge of the device-select byte. -/
def waiting (cnt : BitVec 32) (pulled : Bool) : State :=
  running .addressPhase .ackWait .released 0#9 8#4 cnt 1 pulled

/-- A wait for the line to be let go after the acknowledge of the device-select byte. -/
def lettingGo (cnt : BitVec 32) (pulled : Bool) : State :=
  running .addressPhase .ackRise .released 0#9 8#4 cnt 1 pulled

/-- The same after the CRC byte. -/
def crcLettingGo (cnt : BitVec 32) (pulled : Bool) : State :=
  running .crcPhase .ackRise .released 3#9 8#4 cnt 3 pulled

/-- The last cycle of the standby pulse. -/
def lastCycle : State := running .standbyPulse .standby .released 3#9 8#4 1#32 3 false

/-- `ShapeInv`, as a question that `decide` settles. -/
abbrev Shaped (s : State) : Prop :=
  Cfg.legal s.cfg = true ∧ s.pins.length = s.cfg.nPads ∧ s.padreg.length = s.cfg.nWords ∧
  (∀ w ∈ s.padreg, w < 2 ^ s.cfg.padW) ∧ Memory.wf s.txbuf = true ∧ ∀ c ∈ s.txbuf, c.1 < s.cfg.maxData

/-- `TwoStatePin`, so. -/
abbrev TwoState (q : Pin) : Prop :=
  (q.od = some .released ↔ q.owner = .emulator ∧ q.ovr = true ∧ q.oe = false) ∧
  (q.od = some .drivenLow ↔ q.owner = .emulator ∧ q.ovr = true ∧ q.oe = true) ∧
  (q.od = none ↔ q.ovr = false) ∧ (q.od = none → q.owner = .nobody ∨ q.owner = .engine)

/-- `EngineInv`, so. -/
abbrev EngineSound (s : State) : Prop :=
  (∀ p < s.cfg.nPads, (s.pin p).owner = .engine ↔ s.eng.run = true ∧ s.eng.pin.toNat = p) ∧
  (s.eng.cfgd = true → s.eng.pin.toNat < s.cfg.nPads ∧ 1 ≤ s.eng.half.toNat) ∧
  (s.eng.run = true → s.eng.cfgd = true ∧ (s.pin s.eng.pin.toNat).oe = true ∧
    (s.pin s.eng.pin.toNat).out = s.eng.lvl ∧ 1 ≤ s.eng.cnt.toNat ∧ s.eng.cnt.toNat ≤ s.eng.half.toNat) ∧
  ∀ p < s.cfg.nPads, ¬ (s.eng.run = true ∧ s.eng.pin.toNat = p) →
    (s.pin p).out = false ∧ ((s.pin p).owner = .nobody → (s.pin p).oe = false)

/-- `DriverInv`, so. -/
abbrev DriverSound (s : State) : Prop :=
  (s.drv.busy = true → (s.pin s.cfg.busPin).od ≠ none ∧ s.cfg.busGrp = 0) ∧
  s.drv.busy = s.drv.state.inTransaction ∧
  (s.drv.state = .error → s.drv.err = .noAcknowledge ∨ s.drv.err = .busTimeout) ∧
  (s.drv.state ≠ .error → s.drv.err = .ok)

/-- The parts of `Inv` that concern no transaction. -/
def resting (s : State) : Bool :=
  decide (Shaped s) && decide (∀ p < s.cfg.nPads, TwoState (s.pin p)) && decide (EngineSound s) &&
  decide (DriverSound s)

/-- The first parts of `PositionInv`. -/
def underway (s : State) : Bool :=
  resting s && decide (s.drv.n.toNat ≤ s.cfg.maxData) &&
  decide (∀ k < s.drv.n.toNat, (Memory.read s.txbuf k).isSome = true) &&
  decide (s.drv.byte.toNat ≤ s.drv.n.toNat + 2) && decide (s.drv.cnt ≠ 0#32)

theorem inv_of (s : State) (h : resting s = true) (hp : s.drv.busy = true → PositionInv s) : Inv s := by
  simp only [resting, Bool.and_eq_true, decide_eq_true_eq] at h
  obtain ⟨⟨⟨⟨h1, h2, h3, h4, h5, h6⟩, h7⟩, h8, h9, h10, h11⟩, h12, h13, h14, h15⟩ := h
  exact ⟨⟨h1, h2, h3, h4, h5, h6⟩, fun p q => ⟨(h7 p q).1, (h7 p q).2.1, (h7 p q).2.2.1, (h7 p q).2.2.2⟩,
    ⟨h8, h9, h10, h11⟩, ⟨h12, h13, h14, h15⟩, hp⟩

theorem inv_of_idle (s : State) (h : resting s = true) (hb : s.drv.busy = false) : Inv s :=
  inv_of s h fun b => absurd (hb.symm.trans b) (by decide)

theorem inv_of_running (s : State) (h : underway s = true)
    (hc : s.drv.crc = crcRun s.cfg ((crcBytes s).take (bytesOut s))) (hp : PositionOf s s.drv.step) : Inv s := by
  simp only [underway, Bool.and_eq_true, decide_eq_true_eq] at h
  exact inv_of s h.1.1.1.1 fun _ => ⟨h.1.1.1.2, h.1.1.2, h.1.2, h.2, hc, hp⟩

theorem crc_of (s : State) (bytes : List Byte) (h : s.drv.crc = crcRun s.cfg bytes)
    (hb : (crcBytes s).take (bytesOut s) = bytes) : s.drv.crc = crcRun s.cfg ((crcBytes s).take (bytesOut s)) := by
  rw [h, hb]

theorem running_crc (st : DrvState) (sp : DrvStep) (o : Od) (byte : BitVec 9) (bit : BitVec 4) (cnt : BitVec 32)
    (m : Nat) (pulled : Bool) : (running st sp o byte bit cnt m pulled).drv.crc =
      crcRun (running st sp o byte bit cnt m pulled).cfg (sent m) := rfl

theorem idle_inv : Inv idle := inv_of_idle _ (by decide) rfl
theorem holding_inv : Inv (holding .released) ∧ Inv (holding .drivenLow) :=
  ⟨inv_of_idle _ (by decide) rfl, inv_of_idle _ (by decide) rfl⟩
theorem ready_inv : Inv (ready 0#8) ∧ Inv (ready 1#8) :=
  ⟨inv_of_idle _ (by decide) rfl, inv_of_idle _ (by decide) rfl⟩
theorem readyOnAcquired_inv : Inv readyOnAcquired := inv_of_idle _ (by decide) rfl
theorem toggling_inv : Inv (toggling 1#16) ∧ Inv (toggling 2#16) :=
  ⟨inv_of_idle _ (by decide) rfl, inv_of_idle _ (by decide) rfl⟩
theorem togglingOnBus_inv : Inv togglingOnBus := inv_of_idle _ (by decide) rfl
theorem started_inv : Inv started := inv_of_running _ (by decide) rfl ⟨rfl, rfl, rfl, rfl, by decide⟩
theorem rising_inv : Inv (rising 1#32 true) ∧ Inv (rising 2#32 true) ∧ Inv (rising 1#32 false) :=
  ⟨inv_of_running _ (by decide) rfl ⟨rfl, rfl, rfl, rfl, by decide⟩,
   inv_of_running _ (by decide) rfl ⟨rfl, rfl, rfl, rfl, by decide⟩,
   inv_of_running _ (by decide) rfl ⟨rfl, rfl, rfl, rfl, by decide⟩⟩
theorem firstCell_inv : Inv firstCell := inv_of_running _ (by decide) rfl ⟨rfl, by decide, rfl, by decide⟩
theorem waiting_inv : Inv (waiting 1#32 false) ∧ Inv (waiting 2#32 false) ∧ Inv (waiting 1#32 true) :=
  ⟨inv_of_running _ (by decide) rfl ⟨rfl, rfl, rfl, by decide⟩,
   inv_of_running _ (by decide) rfl ⟨rfl, rfl, rfl, by decide⟩,
   inv_of_running _ (by decide) rfl ⟨rfl, rfl, rfl, by decide⟩⟩
theorem lettingGo_inv : Inv (lettingGo 1#32 true) ∧ Inv (lettingGo 2#32 true) ∧ Inv (lettingGo 1#32 false) :=
  ⟨inv_of_running _ (by decide) rfl ⟨rfl, rfl, rfl, by decide⟩,
   inv_of_running _ (by decide) rfl ⟨rfl, rfl, rfl, by decide⟩,
   inv_of_running _ (by decide) rfl ⟨rfl, rfl, rfl, by decide⟩⟩
theorem crcLettingGo_inv : Inv (crcLettingGo 1#32 false) :=
  inv_of_running _ (by decide) (crc_of _ (sent 3) (running_crc ..) (by decide)) ⟨rfl, rfl, rfl, by decide⟩
theorem lastCycle_inv : Inv lastCycle :=
  inv_of_running _ (by decide) (crc_of _ (sent 3) (running_crc ..) (by decide)) ⟨rfl, rfl, rfl, rfl, by decide⟩
theorem started_just : JustStarted started 0xA1#8 0x03#8 := ⟨rfl, rfl, rfl, rfl, rfl, rfl⟩

/-! #### The request word and the step -/

/-- `s` with the host presenting `w`. -/
def offering (w : Word) (s : State) : State := { s with host := [.request w] }

theorem witness_DecodeOfEncode :
    WellFormed (.getPullUp 3 255) ∧ WellFormed (.configure 255 65535) ∧ WellFormed (.transact 0xFF#8 0xFF#8 255) := by
  decide
theorem witness_EncodeOfDecode : decode 0xC0FF00FF#32 = some (.wrbuf 255 0xFF#8) := by decide
theorem witness_DecodeSelectsTheRow :
    (∃ r q, rows[12]? = some r ∧ rows[12]? = some q ∧ 0xC0FF00FF#32 &&& r.mask = r.pat ∧
      0xC0FF00FF#32 &&& q.mask = q.pat) ∧
    (∃ r ∈ rows, 0xC0FF00FF#32 &&& r.mask = r.pat) ∧ ∀ r ∈ rows, 0xD0000000#32 &&& r.mask ≠ r.pat := by
  refine ⟨⟨_, _, rfl, rfl, ?_, ?_⟩, ?_, ?_⟩ <;> decide
theorem witness_ReservedWordIsRefused : Cfg.legal idle.cfg = true ∧ idle.rst = false ∧ idle.drv.busy = false ∧
    (offering 0xD0000000#32 idle).host = .request 0xD0000000#32 :: [] ∧
    ∀ r ∈ rows, 0xD0000000#32 &&& r.mask ≠ r.pat := by decide
theorem witness_StepRunsTheDecodedOperation : Cfg.legal idle.cfg = true ∧ idle.rst = false ∧
    idle.drv.busy = false ∧ (offering 0x40000000#32 idle).host = .request 0x40000000#32 :: [] ∧
    decode 0x40000000#32 = some (.acquire 0 0) := by decide
theorem witness_PresentedWordRunsNext : Cfg.legal started.cfg = true ∧ 0x40000000 < 2 ^ 32 ∧
    decode (BitVec.ofNat 32 0x40000000) = some (.acquire 0 0) ∧ idle.rst = false ∧ idle.drv.busy = false := by decide
theorem witness_BusyStepIsATick : Cfg.legal started.cfg = true ∧ (offering 0x40000000#32 started).rst = false ∧
    (offering 0x40000000#32 started).drv.busy = true ∧
    (offering 0x40000000#32 started).host = .request 0x40000000#32 :: [] := by decide
theorem witness_StepAnswersUnderALegalConfiguration : Cfg.legal idle.cfg = true ∧
    Cfg.legal { tiny with tHalf := 0#32 } = false ∧ Cfg.legal { tiny with cell0 := tiny.cell1 } = false ∧
    Cfg.legal { tiny with pads := [⟨0, 3, 2⟩, ⟨0, 1, 3⟩] } = false := by decide

/-! #### Operations -/

/-- The clauses of R131 and R133: group and index at both sides of their bounds. -/
theorem witness_GetPullUpAnswersTheBit : ¬ (1 = 0 ∧ 0 < idle.cfg.nPads) ∧ ¬ (0 = 0 ∧ 2 < idle.cfg.nPads) ∧
    1 < idle.cfg.nPads := by decide
theorem witness_GetPullDownAnswersTheBit : ¬ (3 = 0 ∧ 1 < idle.cfg.nPads) ∧ ¬ (0 = 0 ∧ 2 < idle.cfg.nPads) ∧
    0 < idle.cfg.nPads := by decide
theorem witness_SetPullUpWritesOneBit : ShapeInv idle ∧ ¬ (0 = 0 ∧ 2 < idle.cfg.nPads) ∧ 1 < idle.cfg.nPads :=
  ⟨idle_inv.shape, by decide, by decide⟩
theorem witness_SetPullDownWritesOneBit : ShapeInv idle ∧ ¬ (1 = 0 ∧ 1 < idle.cfg.nPads) ∧ 1 < idle.cfg.nPads :=
  ⟨idle_inv.shape, by decide, by decide⟩
theorem witness_SetAndClearBitLaws : ShapeInv idle ∧ 0 < idle.cfg.nWords ∧ 3 < idle.cfg.padW :=
  ⟨idle_inv.shape, by decide, by decide⟩
theorem witness_PullBitsAreIndependent : ShapeInv idle ∧ 1 < idle.cfg.nPads := ⟨idle_inv.shape, by decide⟩
theorem witness_PadOperationsIgnoreOwnership :
    (next? (exec (.setPullUp 0 0 false) (holding .drivenLow))).isSome = true := by decide
theorem witness_AcquireClaimsThePin : ShapeInv idle ∧ ShapeInv togglingOnBus ∧ ShapeInv (holding .drivenLow) ∧
    ¬ (0 = 0 ∧ 2 < idle.cfg.nPads) ∧ (togglingOnBus.pin 0).owner = .engine ∧
    ((holding .drivenLow).pin 0).owner = .emulator ∧ 1 < idle.cfg.nPads ∧ (idle.pin 1).owner = .nobody :=
  ⟨idle_inv.shape, togglingOnBus_inv.shape, holding_inv.2.shape, by decide⟩
theorem witness_ReleaseDisablesTheOutput : idle.cfg.nPads ≤ 2 ∧ (idle.pin 1).od = none ∧
    0 < idle.cfg.nPads ∧ ((holding .drivenLow).pin 0).od ≠ none ∧ (holding .drivenLow).ext 0 = false ∧
    { holding .drivenLow with env := [⟨[0], false⟩] }.ext 0 = true ∧ (holding .drivenLow).pue 0 = true ∧
    (holding .drivenLow).pde 0 = false := by decide
theorem witness_DriveLowSinksTheLine : idle.cfg.nPads ≤ 2 ∧ (idle.pin 1).od = none ∧
    0 < idle.cfg.nPads ∧ ((holding .released).pin 0).od ≠ none ∧ ((holding .released).pin 0).ovr = true := by decide
theorem witness_ReadAnswersTheLine : ¬ (2 < idle.cfg.nPads ∧ (idle.pin 2).od = some .released) ∧
    ((holding .drivenLow).pin 0).od ≠ some .released ∧ ((holding .released).pin 0).od = some .released ∧
    (holding .released).line 0 = .high ∧ { holding .released with env := [⟨[0], false⟩] }.line 0 = .low := by decide
theorem witness_AcquiredPinStaysAcquired : Inv readyOnAcquired ∧ 0 < readyOnAcquired.cfg.nPads ∧
    (readyOnAcquired.pin 0).owner = .emulator ∧ (readyOnAcquired.pin 0).ovr = true ∧ readyOnAcquired.rst = false ∧
    (next? (step readyOnAcquired)).isSome = true ∧ readyOnAcquired.eng.cfgd = true ∧
    readyOnAcquired.eng.run = false ∧ readyOnAcquired.eng.pin.toNat = 0 := ⟨readyOnAcquired_inv, by decide⟩
theorem witness_EnabledOutputOfAnAcquiredPinIsLow : Inv (holding .drivenLow) ∧ 0 < tiny.nPads ∧
    ((holding .drivenLow).pin 0).od ≠ none ∧ ((holding .drivenLow).pin 0).oe = true := ⟨holding_inv.2, by decide⟩
theorem witness_OnlyTheEngineDrivesHigh : Inv (toggling 2#16) ∧ 1 < tiny.nPads ∧ (toggling 2#16).drive 1 = .high :=
  ⟨toggling_inv.2, by decide⟩
theorem witness_LineResolvesAsListed :
    ((toggling 2#16).drive 1 = .high ∧ { toggling 2#16 with env := [⟨[1], false⟩] }.ext 1 = true) ∧
    (holding .drivenLow).drive 0 = .low ∧
    ({ idle with env := [⟨[0], false⟩] }.ext 0 = true ∧ idle.drive 0 ≠ .high) ∧ (toggling 2#16).ext 1 = false ∧
    (idle.drive 0 = .hiZ ∧ idle.ext 0 = false ∧ idle.pue 0 = true ∧ idle.pde 0 = false) ∧
    ({ idle with padreg := [4] }.pue 0 = false ∧ { idle with padreg := [4] }.pde 0 = true) ∧
    idle.pue 1 = idle.pde 1 := by decide
theorem witness_ConfigureLoadsTheEngine : WellFormed (.configure 1 65535) ∧ WellFormed (.configure 2 1) ∧
    WellFormed (.configure 1 0) ∧ (toggling 2#16).eng.run = true ∧ idle.cfg.nPads ≤ 2 ∧ idle.eng.run = false ∧
    1 < idle.cfg.nPads := by decide
theorem witness_StartBeginsTheWaveform : ShapeInv (ready 1#8) ∧ EngineInv (ready 1#8) ∧
    ShapeInv readyOnAcquired ∧ EngineInv readyOnAcquired ∧ idle.eng.cfgd = false ∧ (toggling 2#16).eng.run = true ∧
    (readyOnAcquired.pin readyOnAcquired.eng.pin.toNat).owner = .emulator ∧ readyOnAcquired.eng.cfgd = true ∧
    (ready 1#8).eng.cfgd = true ∧ (ready 1#8).eng.run = false ∧
    ((ready 1#8).pin (ready 1#8).eng.pin.toNat).owner ≠ .emulator ∧
    ((ready 1#8).pin (ready 1#8).eng.pin.toNat).ovr = false ∧ (ready 1#8).ext 1 = false ∧
    { ready 1#8 with env := [⟨[1], false⟩] }.ext 1 = true :=
  ⟨ready_inv.2.shape, ready_inv.2.engine, readyOnAcquired_inv.shape, readyOnAcquired_inv.engine, by decide⟩
theorem witness_StopLeavesThePinUndriven : ShapeInv (toggling 1#16) ∧ EngineInv (toggling 1#16) ∧
    ShapeInv idle ∧ EngineInv idle ∧ idle.eng.run = false ∧ (toggling 1#16).eng.run = true :=
  ⟨toggling_inv.1.shape, toggling_inv.1.engine, idle_inv.shape, idle_inv.engine, by decide⟩
theorem witness_EngineTickTogglesAtTheHalfPeriod : Inv (toggling 1#16) ∧ Inv (toggling 2#16) ∧ Inv idle ∧
    (toggling 1#16).eng.run = true ∧ (toggling 1#16).eng.cnt = 1#16 ∧ (toggling 2#16).eng.cnt ≠ 1#16 ∧
    idle.eng.run = false := ⟨toggling_inv.1, toggling_inv.2, idle_inv, by decide⟩
theorem witness_SquareWaveClosedForm : Inv (ready 1#8) ∧ (ready 1#8).eng.run = false ∧
    (next? (exec (.start 0) (ready 1#8))).map (fun t => t.eng.run) = some true := ⟨ready_inv.2, by decide⟩
/-- The engine running on pin 1, with three cycles scheduled in which nobody pulls. -/
def undisturbed : State := { toggling 1#16 with env := [⟨[], false⟩, ⟨[], false⟩, ⟨[], false⟩] }

theorem undisturbed_inv : Inv undisturbed := inv_of_idle _ (by decide) rfl
theorem witness_SamplesHalfAPeriodApartDiffer : Inv undisturbed ∧ undisturbed.eng.run = true ∧
    undisturbed.ext undisturbed.eng.pin.toNat = false ∧
    (ticks undisturbed.eng.half.toNat undisturbed).ext undisturbed.eng.pin.toNat = false :=
  ⟨undisturbed_inv, by decide⟩
theorem witness_OperationsLeaveTheEngineAlone : Inv (toggling 1#16) ∧ (toggling 1#16).eng.run = true ∧
    Instr.acquire 0 0 ≠ .stop 0 ∧ (next? (exec (.acquire 0 0) (toggling 1#16))).isSome = true :=
  ⟨toggling_inv.1, by decide⟩
theorem witness_WrbufWritesOneEntry : idle.cfg.maxData ≤ 2 ∧ 1 < idle.cfg.maxData ∧ Memory.wf idle.txbuf = true := by
  decide
theorem witness_TransactRequestCheckRefuses : idle.cfg.maxData < 3 ∧ 0 < 1 ∧ Memory.read idle.txbuf 0 = none := by
  decide
theorem witness_TransactSetUpAcquiresTheBusPin : ShapeInv idle ∧ ShapeInv togglingOnBus ∧ 0 ≤ idle.cfg.maxData ∧
    (∀ k < 0, Memory.read idle.txbuf k ≠ none) ∧ (idle.pin idle.cfg.busPin).od = none ∧
    (idle.pin idle.cfg.busPin).owner = .nobody ∧ (togglingOnBus.pin 0).od = none ∧
    (togglingOnBus.pin 0).owner = .engine ∧ idle.cfg.busGrp = 0 ∧ idle.cfg.busPin < idle.cfg.nPads ∧
    ¬ ({ tiny with busPin := 2 }.busGrp = 0 ∧ { tiny with busPin := 2 }.busPin < tiny.nPads) :=
  ⟨idle_inv.shape, togglingOnBus_inv.shape, by decide⟩
theorem witness_TransactStartsTheStartPulse :
    { holding .drivenLow with txbuf := [(0, 1#8), (1, 2#8)] }.cfg.maxData = 2 ∧
    (∀ k < 2, Memory.read { holding .drivenLow with txbuf := [(0, 1#8), (1, 2#8)] }.txbuf k ≠ none) ∧
    tiny.busGrp = 0 ∧ tiny.busPin < tiny.nPads ∧ ((holding .drivenLow).pin 0).od ≠ none ∧
    ((holding .drivenLow).pin 0).ovr = true := by decide

/-! #### The transaction -/

theorem witness_StartPulseIsExact : Inv started ∧ JustStarted started 0xA1#8 0x03#8 := ⟨started_inv, started_just⟩
theorem witness_SendByteHoldsItsCells : Inv firstCell ∧ firstCell.drv.busy = true ∧
    firstCell.drv.step = .bitFirst ∧ firstCell.drv.bit = 0#4 ∧ firstCell.drv.cnt = firstCell.cfg.tHalf := ⟨firstCell_inv, by decide⟩
theorem witness_RecordedCellsDecodeToTheByte : Inv firstCell ∧ firstCell.drv.busy = true ∧
    firstCell.drv.step = .bitFirst ∧ firstCell.drv.bit = 0#4 ∧ firstCell.drv.cnt = firstCell.cfg.tHalf :=
  ⟨firstCell_inv, by decide⟩
theorem witness_CrcByteCoversTheFrame : Inv (crcLettingGo 1#32 false) ∧ (crcLettingGo 1#32 false).drv.busy = true ∧
    (crcLettingGo 1#32 false).drv.byte.toNat = (crcLettingGo 1#32 false).drv.n.toNat + 2 :=
  ⟨crcLettingGo_inv, rfl, rfl⟩
theorem witness_SamplesMatterOnlyInWaits : lastCycle.drv.step ≠ .startRise ∧ lastCycle.drv.step ≠ .ackWait ∧
    lastCycle.drv.step ≠ .ackRise := ⟨by decide, by decide, by decide⟩
theorem witness_WaitsEndAsTheSlotSays_start :
    (Inv (rising 1#32 false) ∧ (rising 1#32 false).sampleValue 0 = true) ∧
    (Inv (rising 1#32 true) ∧ (rising 1#32 true).sampleValue 0 = false ∧ (rising 1#32 true).drv.cnt = 1#32) ∧
    (Inv (rising 2#32 true) ∧ (rising 2#32 true).sampleValue 0 = false ∧ (rising 2#32 true).drv.cnt ≠ 1#32) :=
  ⟨⟨rising_inv.2.2, by decide⟩, ⟨rising_inv.1, by decide⟩, rising_inv.2.1, by decide⟩
theorem witness_WaitsEndAsTheSlotSays_acknowledge :
    (Inv (waiting 1#32 true) ∧ (waiting 1#32 true).sampleValue 0 = tiny.ackLevel) ∧
    (Inv (waiting 1#32 false) ∧ (waiting 1#32 false).sampleValue 0 ≠ tiny.ackLevel) ∧
    (Inv (waiting 2#32 false) ∧ (waiting 2#32 false).sampleValue 0 ≠ tiny.ackLevel) :=
  ⟨⟨waiting_inv.2.2, by decide⟩, ⟨waiting_inv.1, by decide⟩, waiting_inv.2.1, by decide⟩
theorem witness_WaitsEndAsTheSlotSays_release :
    (Inv (lettingGo 1#32 false) ∧ (lettingGo 1#32 false).sampleValue 0 ≠ tiny.ackLevel ∧
      (lettingGo 1#32 false).drv.byte.toNat < (lettingGo 1#32 false).drv.n.toNat + 2) ∧
    (Inv (crcLettingGo 1#32 false) ∧ (crcLettingGo 1#32 false).sampleValue 0 ≠ tiny.ackLevel ∧
      (crcLettingGo 1#32 false).drv.byte.toNat = (crcLettingGo 1#32 false).drv.n.toNat + 2 ∧ tiny.tStandby ≠ 0#32) ∧
    (Inv (lettingGo 1#32 true) ∧ (lettingGo 1#32 true).sampleValue 0 = tiny.ackLevel) ∧
    (Inv (lettingGo 2#32 true) ∧ (lettingGo 2#32 true).sampleValue 0 = tiny.ackLevel) :=
  ⟨⟨lettingGo_inv.2.2, by decide⟩, ⟨crcLettingGo_inv, by decide⟩, ⟨lettingGo_inv.1, by decide⟩,
    lettingGo_inv.2.1, by decide⟩
theorem witness_EveryExitReleasesTheLine :
    (Inv lastCycle ∧ lastCycle.drv.busy = true ∧ (tick lastCycle).drv.busy = false) ∧
    (Inv (waiting 1#32 false) ∧ (waiting 1#32 false).drv.busy = true ∧
      (tick (waiting 1#32 false)).drv.busy = false) ∧
    (Inv (rising 1#32 true) ∧ (rising 1#32 true).drv.busy = true ∧ (tick (rising 1#32 true)).drv.busy = false) :=
  ⟨⟨lastCycle_inv, rfl, by decide⟩, ⟨waiting_inv.1, rfl, by decide⟩, rising_inv.1, rfl, by decide⟩
/-- The last cycle of a wait in the ack slot of byte `byte`, after `m` bytes. -/
def inSlot (st : DrvState) (sp : DrvStep) (byte : BitVec 9) (m : Nat) (pulled : Bool) : State :=
  running st sp .released byte 8#4 1#32 m pulled

theorem inSlot_crc (st : DrvState) (sp : DrvStep) (byte : BitVec 9) (m : Nat) (pulled : Bool) :
    (inSlot st sp byte m pulled).drv.crc = crcRun (inSlot st sp byte m pulled).cfg (sent m) := rfl

/-- `s` with no data bytes in the transaction in hand. -/
def noData (s : State) : State := { s with drv := { s.drv with n := 0#8 } }

theorem noData_crc (s : State) (bytes : List Byte) (h : s.drv.crc = crcRun s.cfg bytes) :
    (noData s).drv.crc = crcRun (noData s).cfg bytes := h

/-- The command byte acknowledged and let go, no data bytes to come. -/
def pureCommand : State := noData (inSlot .commandPhase .ackRise 1#9 2 false)

/-- The CRC byte acknowledged and let go, where there is no standby pulse. -/
def noStandby : State := { crcLettingGo 1#32 false with cfg := { tiny with tStandby := 0#32 } }

/-- A transaction that failed. -/
def failed : State := { holding .released with drv := { Driver.atReset with state := .error, err := .noAcknowledge } }

/-- `s` meets the hypotheses of OnlyListedTransitionsOccur and moves from `a` to `b`. -/
structure Moves (s : State) (a b : DrvState) : Prop where
  inv : Inv s
  rst : s.rst = false
  source : s.drv.state = a
  target : (next? (step s)).map (fun t => t.drv.state) = some b

theorem failed_inv : Inv (offering 0xB000A103#32 failed) := inv_of_idle _ (by decide) rfl
theorem noStandby_inv : Inv noStandby :=
  inv_of_running _ (by decide) (crc_of _ (sent 3) (running_crc .crcPhase .ackRise .released 3#9 8#4 1#32 3 false)
    (by decide)) ⟨rfl, rfl, rfl, by decide⟩

theorem witness_OnlyListedTransitionsOccur_start :
    Moves (offering 0xB000A103#32 idle) .idle .startCondition ∧
    Moves (offering 0xB000A103#32 failed) .error .startCondition ∧
    Moves (rising 1#32 false) .startCondition .addressPhase ∧ Moves (rising 1#32 true) .startCondition .error :=
  ⟨⟨inv_of_idle _ (by decide) rfl, rfl, rfl, by decide⟩, ⟨failed_inv, rfl, rfl, by decide⟩,
   ⟨rising_inv.2.2, rfl, rfl, by decide⟩, ⟨rising_inv.1, rfl, rfl, by decide⟩⟩
theorem witness_OnlyListedTransitionsOccur_onward :
    Moves (lettingGo 1#32 false) .addressPhase .commandPhase ∧
    Moves (inSlot .commandPhase .ackRise 1#9 2 false) .commandPhase .dataPhase ∧
    Moves pureCommand .commandPhase .crcPhase ∧ Moves (inSlot .dataPhase .ackRise 2#9 3 false) .dataPhase .crcPhase ∧
    Moves (crcLettingGo 1#32 false) .crcPhase .standbyPulse ∧ Moves noStandby .crcPhase .idle ∧
    Moves lastCycle .standbyPulse .idle := by
  refine ⟨⟨lettingGo_inv.2.2, rfl, rfl, by decide⟩, ⟨?_, rfl, rfl, by decide⟩, ⟨?_, rfl, rfl, by decide⟩,
    ⟨?_, rfl, rfl, by decide⟩, ⟨crcLettingGo_inv, rfl, rfl, by decide⟩, ⟨noStandby_inv, rfl, rfl, by decide⟩,
    ⟨lastCycle_inv, rfl, rfl, by decide⟩⟩
  · exact inv_of_running _ (by decide) (crc_of _ (sent 2) (inSlot_crc .commandPhase .ackRise 1#9 2 false)
      (by decide)) ⟨rfl, rfl, rfl, by decide⟩
  · exact inv_of_running _ (by decide) (crc_of _ (sent 2)
      (noData_crc _ _ (inSlot_crc .commandPhase .ackRise 1#9 2 false)) (by decide)) ⟨rfl, rfl, rfl, by decide⟩
  · exact inv_of_running _ (by decide) (crc_of _ (sent 3) (inSlot_crc .dataPhase .ackRise 2#9 3 false)
      (by decide)) ⟨rfl, rfl, rfl, by decide⟩
theorem witness_OnlyListedTransitionsOccur_failures :
    Moves (waiting 1#32 false) .addressPhase .error ∧ Moves (lettingGo 1#32 true) .addressPhase .error ∧
    Moves (inSlot .commandPhase .ackWait 1#9 2 false) .commandPhase .error ∧
    Moves (inSlot .dataPhase .ackRise 2#9 3 true) .dataPhase .error ∧
    Moves (inSlot .crcPhase .ackWait 3#9 3 false) .crcPhase .error := by
  refine ⟨⟨waiting_inv.1, rfl, rfl, by decide⟩, ⟨lettingGo_inv.1, rfl, rfl, by decide⟩,
    ⟨?_, rfl, rfl, by decide⟩, ⟨?_, rfl, rfl, by decide⟩, ⟨?_, rfl, rfl, by decide⟩⟩
  · exact inv_of_running _ (by decide) (crc_of _ (sent 2) (inSlot_crc .commandPhase .ackWait 1#9 2 false)
      (by decide)) ⟨rfl, rfl, rfl, by decide⟩
  · exact inv_of_running _ (by decide) (crc_of _ (sent 3) (inSlot_crc .dataPhase .ackRise 2#9 3 true)
      (by decide)) ⟨rfl, rfl, rfl, by decide⟩
  · exact inv_of_running _ (by decide) (crc_of _ (sent 3) (inSlot_crc .crcPhase .ackWait 3#9 3 false)
      (by decide)) ⟨rfl, rfl, rfl, by decide⟩
theorem witness_DriverTickFollowsTheProcedure : Inv started ∧ JustStarted started 0xA1#8 0x03#8 :=
  ⟨started_inv, started_just⟩
theorem witness_EveryTransactionEndsWithinItsBound : Inv started ∧ JustStarted started 0xA1#8 0x03#8 :=
  ⟨started_inv, started_just⟩

/-- `s` with the device pulling the bus low in the cycles from now that `low` says, for `k` cycles. -/
def pulledBy (low : Nat → Bool) (k : Nat) (s : State) : State :=
  { s with env := (List.range k).map fun j => ⟨if low j then [0] else [], false⟩ }

theorem pulledBy_inv (low : Nat → Bool) (k : Nat) : Inv (pulledBy low k started) :=
  ⟨⟨started_inv.shape.1, started_inv.shape.2, started_inv.shape.3, started_inv.shape.4, started_inv.shape.5,
    started_inv.shape.6⟩, started_inv.pins, ⟨started_inv.engine.1, started_inv.engine.2, started_inv.engine.3,
    started_inv.engine.4⟩, ⟨started_inv.driver.1, started_inv.driver.2, started_inv.driver.3, started_inv.driver.4⟩,
    fun h => ⟨(started_inv.position h).1, (started_inv.position h).2, (started_inv.position h).3,
      (started_inv.position h).4, (started_inv.position h).5, (started_inv.position h).6⟩⟩

/-- `started` with another participant holding the line low for the first `j - 1` samples after the pulse. -/
def letGoAfter (j : Nat) : State := pulledBy (fun k => decide (2 ≤ k ∧ k + 1 < 2 + j)) (21 + j) started

/-- `j = 1`: nothing ever holds the line. -/
theorem witness_SilentDeviceGivesNoAcknowledge_free :
    Inv (letGoAfter 1) ∧ JustStarted (letGoAfter 1) 0xA1#8 0x03#8 ∧ PulledUp (letGoAfter 1) 0 ∧
    1 ≤ tiny.tTimeout.toNat ∧
    22 = tiny.tStart.toNat + 1 + 16 * tiny.tHalf.toNat + tiny.tAckDelay.toNat + tiny.tTimeout.toNat ∧
    ∀ k < 22, lowAt (letGoAfter 1) 0 k = some (decide (tiny.tStart.toNat ≤ k ∧ k + 1 < tiny.tStart.toNat + 1)) :=
  ⟨pulledBy_inv _ _, ⟨rfl, rfl, rfl, rfl, rfl, rfl⟩, ⟨by decide, by decide⟩, by decide, by decide, by decide⟩

/-- `j = T_TIMEOUT = 2`: the line is let go just in time. -/
theorem witness_SilentDeviceGivesNoAcknowledge_late :
    Inv (letGoAfter 2) ∧ JustStarted (letGoAfter 2) 0xA1#8 0x03#8 ∧ PulledUp (letGoAfter 2) 0 ∧
    2 ≤ tiny.tTimeout.toNat ∧
    23 = tiny.tStart.toNat + 2 + 16 * tiny.tHalf.toNat + tiny.tAckDelay.toNat + tiny.tTimeout.toNat ∧
    ∀ k < 23, lowAt (letGoAfter 2) 0 k = some (decide (tiny.tStart.toNat ≤ k ∧ k + 1 < tiny.tStart.toNat + 2)) :=
  ⟨pulledBy_inv _ _, ⟨rfl, rfl, rfl, rfl, rfl, rfl⟩, ⟨by decide, by decide⟩, by decide, by decide, by decide⟩

/-- `PromptAck` of a transaction of `tiny` with one data byte. -/
def promptTiny (k : Nat) : Bool := k = 20 || k = 39 || k = 58 || k = 77

theorem promptTiny_iff (k : Nat) : promptTiny k = true ↔ PromptAck tiny 1 k := by
  have h : PromptAck tiny 1 k ↔ ∃ j < 4, k = 3 + j * 19 + 16 + 1 := Iff.rfl
  rw [h]
  simp only [promptTiny, Bool.or_eq_true, decide_eq_true_eq]
  constructor
  · rintro (((rfl | rfl) | rfl) | rfl)
    exacts [⟨0, by decide⟩, ⟨1, by decide⟩, ⟨2, by decide⟩, ⟨3, by decide⟩]
  · rintro ⟨j, hj, rfl⟩
    omega

theorem witness_PromptDeviceSucceedsInTheLeastTime :
    Inv (pulledBy promptTiny 80 started) ∧ JustStarted (pulledBy promptTiny 80 started) 0xA1#8 0x03#8 ∧
    PulledUp (pulledBy promptTiny 80 started) 0 ∧ shortestTransaction tiny 1 = 80 ∧
    ∀ k < 80, ∃ low, lowAt (pulledBy promptTiny 80 started) 0 k = some low ∧
      (low = true ↔ PromptAck tiny 1 k) := by
  refine ⟨pulledBy_inv _ _, ⟨rfl, rfl, rfl, rfl, rfl, rfl⟩, ⟨by decide, by decide⟩, by decide, fun k hk => ?_⟩
  refine ⟨promptTiny k, ?_, promptTiny_iff k⟩
  have h : (pulledBy promptTiny 80 started).env[k]? = some ⟨if promptTiny k then [0] else [], false⟩ := by
    simp [pulledBy, hk]
  unfold lowAt
  rw [h]
  cases promptTiny k <;> rfl

/-! #### Ticks, reset and the whole machine -/

theorem witness_TickFrame : idle.drv.busy = false ∧ started.drv.busy = true ∧ (tick started).drv.busy = true ∧
    ¬ EnginePin started 1 := ⟨rfl, rfl, by decide, by simp [EnginePin, started, running, holding, idle, State.launch,
      Engine.atReset]⟩
theorem witness_ResetCycleTakesResetValues : Cfg.legal started.cfg = true ∧
    { started with env := [⟨[0], true⟩] }.rst = true := by decide
theorem witness_InvariantHoldsAtLaunch : Cfg.legal tiny = true ∧ LegalPadWords tiny [15] := by
  refine ⟨by decide, rfl, ?_⟩; decide
theorem witness_InvariantKeptByEveryStep : Inv started ∧ (next? (step started)).isSome = true :=
  ⟨started_inv, by decide⟩
/-- In REF bit 6 of every pad word is unrelated. -/
theorem witness_UnrelatedBitsNeverChange : Inv idle ∧ (next? (step idle)).isSome = true ∧
    ¬ EnableBit Config.ref 29 6 := by
  refine ⟨idle_inv, by decide, ?_⟩
  unfold EnableBit; decide
theorem witness_ErrorsInTheRequestChangeNothing :
    (next? (exec (.read 2) idle)).map (fun t => t.rsp.map responseStatus) = some (some 7#4) ∧
    (next? (exec (.getPullUp 1 0) idle)).map (fun t => t.rsp.map responseStatus) = some (some 1#4) ∧
    (next? (exec (.acquire 1 0) idle)).map (fun t => t.rsp.map responseStatus) = some (some 2#4) ∧
    (next? (exec (.acquire 0 0) togglingOnBus)).map (fun t => t.rsp.map responseStatus) = some (some 3#4) := by decide
theorem witness_CrcMismatchIsNeverReported :
    (next? (step (waiting 1#32 false))).map (fun t => t.rsp.map responseStatus) = some (some 4#4) := by decide
theorem witness_StatusesOnlyAsListed : (tick (rising 1#32 true)).rsp.map responseStatus = some 5#4 := by decide
theorem witness_ConfigurationIsNeverWritten : (next? (step started)).isSome = true := by decide
theorem witness_ClockStepIsATick : Cfg.legal idle.cfg = true ∧ idle.rst = false ∧ idle.host = [] ∧
    idle.drv.busy = false ∧ { idle with host := [.pass, .pass] }.host = .pass :: [.pass] ∧ started.rst = false ∧
    started.drv.busy = true ∧ { started with host := [.pass] }.host = .pass :: [] := by decide
theorem witness_PadDrivesAsListed : (idle.pin 0).oe = false ∧
    (((holding .drivenLow).pin 0).oe = true ∧ ((holding .drivenLow).pin 0).ovr = true) ∧
    ((engineOn false 1#16).pin 5).oe = true ∧ ((engineOn false 1#16).pin 5).ovr = false ∧
    ((engineOn false 1#16).pin 5).out = false ∧ ((toggling 2#16).pin 1).oe = true ∧
    ((toggling 2#16).pin 1).ovr = false ∧ ((toggling 2#16).pin 1).out = true ∧ Inv (toggling 2#16) ∧
    (toggling 2#16).eng.run = true ∧ (toggling 2#16).ext 1 = false :=
  ⟨by decide, by decide, by decide, by decide, by decide, by decide, by decide, by decide, toggling_inv.2, by decide⟩

end Sys2Proof.Machine.Tests
end

section
/-! SUPPORT. Inversion of the operations that Laws/Step.lean leaves out: the pad operations, `release`,
`drive_low`, `read` and `wrbuf` (spec/40_pad_pull.md R131 to R134; spec/41_open_drain.md R151 to R153;
spec/43_bus_driver.md R201). -/

namespace Sys2Proof.Machine

theorem execGetPullUp_cases {g i : Nat} {s t : State} (h : execGetPullUp g i s = .next t) :
    (supported s.cfg g i = false ∧ t = s.respond (statusOnly .unsupportedPad)) ∨
    (supported s.cfg g i = true ∧ t = s.respond (okValue (s.pue i))) := by
  unfold execGetPullUp at h
  split at h <;> rename_i hs
  · exact .inl ⟨by simpa using hs, raise_eq_next.1 h⟩
  · cases h
    exact .inr ⟨by simpa using hs, rfl⟩

theorem execGetPullDown_cases {g i : Nat} {s t : State} (h : execGetPullDown g i s = .next t) :
    (supported s.cfg g i = false ∧ t = s.respond (statusOnly .unsupportedPad)) ∨
    (supported s.cfg g i = true ∧ t = s.respond (okValue (s.pde i))) := by
  unfold execGetPullDown at h
  split at h <;> rename_i hs
  · exact .inl ⟨by simpa using hs, raise_eq_next.1 h⟩
  · cases h
    exact .inr ⟨by simpa using hs, rfl⟩

theorem execSetPullUp_cases {g i : Nat} {enabled : Bool} {s t : State} (h : execSetPullUp g i enabled s = .next t) :
    (supported s.cfg g i = false ∧ t = s.respond (statusOnly .unsupportedPad)) ∨
    (supported s.cfg g i = true ∧ enabled = true ∧
      t = (s.setBit (padWordOf s.cfg i) (pueBitOf s.cfg i)).respond (statusOnly .ok)) ∨
    (supported s.cfg g i = true ∧ enabled = false ∧
      t = (s.clrBit (padWordOf s.cfg i) (pueBitOf s.cfg i)).respond (statusOnly .ok)) := by
  unfold execSetPullUp at h
  split at h <;> rename_i hs
  · exact .inl ⟨by simpa using hs, raise_eq_next.1 h⟩
  · split at h <;> rename_i he
    · exact .inr (.inl ⟨by simpa using hs, he, returnOk_eq_next.1 h⟩)
    · exact .inr (.inr ⟨by simpa using hs, by simpa using he, returnOk_eq_next.1 h⟩)

theorem execSetPullDown_cases {g i : Nat} {enabled : Bool} {s t : State}
    (h : execSetPullDown g i enabled s = .next t) :
    (supported s.cfg g i = false ∧ t = s.respond (statusOnly .unsupportedPad)) ∨
    (supported s.cfg g i = true ∧ enabled = true ∧
      t = (s.setBit (padWordOf s.cfg i) (pdeBitOf s.cfg i)).respond (statusOnly .ok)) ∨
    (supported s.cfg g i = true ∧ enabled = false ∧
      t = (s.clrBit (padWordOf s.cfg i) (pdeBitOf s.cfg i)).respond (statusOnly .ok)) := by
  unfold execSetPullDown at h
  split at h <;> rename_i hs
  · exact .inl ⟨by simpa using hs, raise_eq_next.1 h⟩
  · split at h <;> rename_i he
    · exact .inr (.inl ⟨by simpa using hs, he, returnOk_eq_next.1 h⟩)
    · exact .inr (.inr ⟨by simpa using hs, by simpa using he, returnOk_eq_next.1 h⟩)

theorem execRelease_cases {p : Nat} {s t : State} (h : execRelease p s = .next t) :
    (acquired s p = false ∧ t = s.respond (statusOnly .refused)) ∨
    (acquired s p = true ∧ t = (s.setOdAt p .released).respond (statusOnly .ok)) := by
  unfold execRelease at h
  split at h <;> rename_i ha
  · exact .inl ⟨by simpa using ha, raise_eq_next.1 h⟩
  · exact .inr ⟨by simpa using ha, returnOk_eq_next.1 h⟩

theorem execDriveLow_cases {p : Nat} {s t : State} (h : execDriveLow p s = .next t) :
    (acquired s p = false ∧ t = s.respond (statusOnly .refused)) ∨
    (acquired s p = true ∧ t = (s.setOdAt p .drivenLow).respond (statusOnly .ok)) := by
  unfold execDriveLow at h
  split at h <;> rename_i ha
  · exact .inl ⟨by simpa using ha, raise_eq_next.1 h⟩
  · exact .inr ⟨by simpa using ha, returnOk_eq_next.1 h⟩

theorem execRead_cases {p : Nat} {s t : State} (h : execRead p s = .next t) :
    (¬ (p < s.cfg.nPads ∧ (s.pin p).od = some .released) ∧ t = s.respond (statusOnly .refused)) ∨
    (p < s.cfg.nPads ∧ (s.pin p).od = some .released ∧
      t = (s.afterSample p).respond (okValue (s.sampleValue p))) := by
  unfold execRead at h
  split at h <;> rename_i hc
  · exact .inl ⟨by simpa [imp_iff_not_or] using hc, raise_eq_next.1 h⟩
  · obtain ⟨hp, hod⟩ : p < s.cfg.nPads ∧ (s.pin p).od = some .released := by simpa using hc
    cases h
    exact .inr ⟨hp, hod, rfl⟩

theorem execWrbuf_cases {k : Nat} {byte : Byte} {s t : State} (h : execWrbuf k byte s = .next t) :
    (s.cfg.maxData ≤ k ∧ t = s.respond (statusOnly .refused)) ∨
    (k < s.cfg.maxData ∧
      t = { s with txbuf := Memory.write s.txbuf k byte, rsp := some (statusOnly .ok) }) := by
  unfold execWrbuf at h
  split at h
  · exact .inl ⟨‹_›, raise_eq_next.1 h⟩
  · exact .inr ⟨not_le.1 ‹_›, returnOk_eq_next.1 h⟩

end Sys2Proof.Machine
end

section
/-! SUPPORT. The configuration record under every kind of step (spec/00_scope.md R5), and O58. -/

namespace Sys2Proof.Machine

/-! ### The writes of the operations -/

@[simp] theorem acquirePin_cfg (s : State) (p : Nat) : (acquirePin s p).cfg = s.cfg := rfl

@[simp] theorem startEngine_cfg (s : State) : (startEngine s).cfg = s.cfg := rfl

@[simp] theorem stopEngine_cfg (s : State) : (stopEngine s).cfg = s.cfg := rfl

@[simp] theorem startTransaction_cfg (sel cmd : Byte) (n : Nat) (s : State) :
    (startTransaction sel cmd n s).cfg = s.cfg := rfl

theorem exec_cfg {i : Instr} {s t : State} (h : exec i s = .next t) : t.cfg = s.cfg := by
  cases i with
  | getPullUp g i => obtain ⟨-, rfl⟩ | ⟨-, rfl⟩ := execGetPullUp_cases h <;> simp
  | setPullUp g i enabled =>
    obtain ⟨-, rfl⟩ | ⟨-, -, rfl⟩ | ⟨-, -, rfl⟩ := execSetPullUp_cases h <;> simp
  | getPullDown g i => obtain ⟨-, rfl⟩ | ⟨-, rfl⟩ := execGetPullDown_cases h <;> simp
  | setPullDown g i enabled =>
    obtain ⟨-, rfl⟩ | ⟨-, -, rfl⟩ | ⟨-, -, rfl⟩ := execSetPullDown_cases h <;> simp
  | acquire g p => obtain ⟨e, -, rfl⟩ | ⟨-, rfl⟩ := execAcquire_cases h <;> simp
  | release p => obtain ⟨-, rfl⟩ | ⟨-, rfl⟩ := execRelease_cases h <;> simp
  | driveLow p => obtain ⟨-, rfl⟩ | ⟨-, rfl⟩ := execDriveLow_cases h <;> simp
  | read p => obtain ⟨-, rfl⟩ | ⟨-, -, rfl⟩ := execRead_cases h <;> simp
  | configure p half => obtain ⟨-, rfl⟩ | ⟨-, -, -, rfl⟩ := execConfigure_cases h <;> simp
  | start k => obtain ⟨-, rfl⟩ | ⟨-, -, -, ⟨-, rfl⟩ | ⟨-, rfl⟩⟩ := execStart_cases h <;> simp
  | stop k => obtain ⟨-, rfl⟩ | ⟨-, -, rfl⟩ | ⟨-, -, rfl⟩ := execStop_cases h <;> simp
  | transact sel cmd n =>
    obtain ⟨-, rfl⟩ | ⟨-, -, ⟨e, -, rfl⟩ | ⟨-, rfl⟩⟩ | ⟨-, -, rfl⟩ := execTransact_cases h <;> simp
  | wrbuf k byte => obtain ⟨-, rfl⟩ | ⟨-, rfl⟩ := execWrbuf_cases h <;> simp

/-! ### The stages of a clock cycle -/

@[simp] theorem busSampled_cfg (s : State) : (busSampled s).cfg = s.cfg := by
  unfold busSampled; split <;> simp

@[simp] theorem engineStage_cfg (s : State) : (engineStage s).cfg = s.cfg := by
  unfold engineStage
  split
  · obtain ⟨hcfg, -⟩ := engineTick_same s
    exact hcfg
  · rfl

@[simp] theorem driverStage_cfg (x : Bool) (s : State) : (driverStage x s).cfg = s.cfg := by
  unfold driverStage
  split
  · exact (driverTick_same x s).cfg
  · rfl

@[simp] theorem tick_cfg (s : State) : (tick s).cfg = s.cfg := by simp [tick]

@[simp] theorem resetTick_cfg (s : State) : (resetTick s).cfg = s.cfg := rfl

/-! ### The step -/

theorem step_cfg {s t : State} (h : step s = .next t) : t.cfg = s.cfg := by
  obtain ⟨-, ⟨-, rfl⟩ | ⟨-, rfl⟩ | ⟨w, i, -, -, hexec⟩ | ⟨w, -, -, rfl⟩⟩ := step_cases h
  · exact resetTick_cfg s
  · exact tick_cfg s
  · exact (exec_cfg hexec).trans s.taken_cfg
  · simp

/-- Settles O58: of the four kinds of step (a reset cycle, a clock cycle, an operation, the refusal of a reserved
word) none writes the configuration record. -/
theorem configurationIsNeverWritten : Obligations.ConfigurationIsNeverWritten := fun _ _ => step_cfg

end Sys2Proof.Machine
end

section
/-! SUPPORT. The invariant of Safety.lean at one pin, and how its parts pass from one state to another whose
registers agree with the first (spec/10_state.md R37 to R40). -/

namespace Sys2Proof.Machine

/-! ### I1 at one pin (R37): the writes that keep it -/

namespace TwoStatePin

variable {q : Pin}

theorem atReset : TwoStatePin Pin.atReset := by
  constructor <;> simp [Pin.atReset]

/-- A pin is acquired exactly when the Emulator owns it. -/
theorem od_eq_none_iff (h : TwoStatePin q) : q.od = none ↔ q.owner ≠ .emulator := by
  constructor
  · intro hod howner
    rcases h.notEmulator hod with ho | ho <;> simp [ho] at howner
  · intro howner
    rcases hod : q.od with _ | o
    · rfl
    · cases o with
      | released => exact absurd (h.released.1 hod).1 howner
      | drivenLow => exact absurd (h.drivenLow.1 hod).1 howner

theorem owner_of_acquired (h : TwoStatePin q) (hod : q.od ≠ none) : q.owner = .emulator :=
  not_not.1 fun howner => hod (h.od_eq_none_iff.2 howner)

theorem ovr_of_acquired (h : TwoStatePin q) (hod : q.od ≠ none) : q.ovr = true := by
  simpa [h.notAcquired] using hod

/-- `SetOd` keeps I1 of an acquired pin (R151, R152). -/
theorem setOd (h : TwoStatePin q) (hod : q.od ≠ none) (o : Od) :
    TwoStatePin { q with od := some o, oe := decide (o = .drivenLow) } := by
  have howner := h.owner_of_acquired hod
  have hovr := h.ovr_of_acquired hod
  cases o <;> constructor <;> simp [howner, hovr]

/-- The registers an `acquire` leaves (R150). -/
theorem acquired :
    TwoStatePin { ovr := true, oe := false, out := false, owner := .emulator, od := some .released } := by
  constructor <;> simp

/-- I1 leaves `oe` and `out` of a pin that is not acquired free, and its owner but for the Emulator. -/
theorem of_not_acquired (h : TwoStatePin q) (hod : q.od = none) {owner : Owner} (howner : owner ≠ .emulator)
    (oe out : Bool) : TwoStatePin { q with owner := owner, oe := oe, out := out } := by
  have hnot : owner = .nobody ∨ owner = .engine := by cases owner <;> simp at howner ⊢
  refine ⟨?_, ?_, h.notAcquired, fun _ => hnot⟩ <;> simp [hod, howner]

theorem withOut (h : TwoStatePin q) (out : Bool) : TwoStatePin { q with out := out } :=
  ⟨h.released, h.drivenLow, h.notAcquired, h.notEmulator⟩

end TwoStatePin

/-! ### The parts of the invariant at a state with the registers they speak of -/

section
variable {s t : State}

theorem ShapeInv.of_eq (h : ShapeInv s) (hcfg : t.cfg = s.cfg) (hpins : t.pins.length = s.pins.length)
    (hpad : t.padreg = s.padreg) (htx : t.txbuf = s.txbuf) : ShapeInv t := by
  obtain ⟨hl, hlen, hwords, hwidth, hwf, hrange⟩ := h
  constructor <;> simpa only [hcfg, hpins, hpad, htx]

/-- I2 speaks of the owners, of `out`, and of `oe` of the pins that the Emulator does not own (R38). -/
theorem EngineInv.of_eq (h : EngineInv s) (hcfg : t.cfg = s.cfg) (heng : t.eng = s.eng)
    (howner : ∀ p, (t.pin p).owner = (s.pin p).owner) (hout : ∀ p, (t.pin p).out = (s.pin p).out)
    (hoe : ∀ p < s.cfg.nPads, (s.pin p).owner ≠ .emulator → (t.pin p).oe = (s.pin p).oe) : EngineInv t := by
  obtain ⟨hown, hconf, hrun, hoth⟩ := h
  refine ⟨?_, ?_, ?_, ?_⟩ <;> simp only [EnginePin, hcfg, heng, howner, hout]
  · exact hown
  · exact hconf
  · intro hr
    obtain ⟨hc, hoe', hrest⟩ := hrun hr
    have hlt := (hconf hc).1
    refine ⟨hc, ?_, hrest⟩
    rw [hoe _ hlt (by simp [(hown _ hlt).2 ⟨hr, rfl⟩]), hoe']
  · intro p hp hne
    obtain ⟨ho, hnobody⟩ := hoth p hp hne
    exact ⟨ho, fun hn => (hoe p hp (by simp [hn])).trans (hnobody hn)⟩

theorem DriverInv.of_eq (h : DriverInv s) (hcfg : t.cfg = s.cfg) (hdrv : t.drv = s.drv)
    (hod : s.drv.busy = true → busOd t = busOd s) : DriverInv t := by
  obtain ⟨hbus, hbusy, herr, hok⟩ := h
  refine ⟨fun hb => ?_, ?_, ?_, ?_⟩ <;> rw [hdrv] at *
  · obtain ⟨hacq, hgrp⟩ := hbus hb
    exact ⟨fun he => hacq ((hod hb).symm.trans he), hcfg ▸ hgrp⟩
  · exact hbusy
  · exact herr
  · exact hok

/-- The position registers are read with the operands, `TXBUF` and what the driver holds on the line, and with
nothing else. -/
theorem PositionInv.of_eq (h : PositionInv s) (hcfg : t.cfg = s.cfg) (hdrv : t.drv = s.drv)
    (htx : t.txbuf = s.txbuf) (hod : busOd t = busOd s) : PositionInv t := by
  obtain ⟨hcount, hwritten, hbyte, hcnt, hcrc, hpos⟩ := h
  refine ⟨?_, ?_, ?_, ?_, ?_, ?_⟩
  · rwa [hdrv, hcfg]
  · rwa [hdrv, htx]
  · rwa [hdrv]
  · rwa [hdrv]
  · simpa only [crcBytes, dataBytes, bytesOut, hdrv, hcfg, htx] using hcrc
  · have hholds : ∀ o, Holds t o ↔ Holds s o := fun o => iff_of_eq (congrArg (· = some o) hod)
    have hcell : ∀ j, curCell t j = curCell s j := fun j => by simp only [curCell, frameByte, hcfg, hdrv, htx]
    rw [hdrv]
    revert hpos
    cases s.drv.step <;> simp only [PositionOf, hholds, hcell, hcfg, hdrv] <;> exact id

/-- The invariant speaks of registers alone: not of time, the schedules, the response or the free draws. -/
theorem Inv.of_eq (h : Inv s) (hcfg : t.cfg = s.cfg) (hpad : t.padreg = s.padreg) (hpins : t.pins = s.pins)
    (heng : t.eng = s.eng) (htx : t.txbuf = s.txbuf) (hdrv : t.drv = s.drv) : Inv t := by
  have hpin : ∀ p, t.pin p = s.pin p := fun p => by simp only [State.pin, hpins]
  have hod : busOd t = busOd s := by simp only [busOd, hpin, hcfg]
  refine ⟨h.shape.of_eq hcfg (by rw [hpins]) hpad htx, ?_, ?_, h.driver.of_eq hcfg hdrv fun _ => hod, ?_⟩
  · simpa only [hcfg, hpin] using h.pins
  · exact h.engine.of_eq hcfg heng (fun p => by rw [hpin]) (fun p => by rw [hpin]) fun p _ _ => by rw [hpin]
  · rw [hdrv]
    exact fun hb => (h.position hb).of_eq hcfg hdrv htx hod

/-- While no transaction runs the invariant is the shape of the registers, I1 and I2. -/
theorem Inv.of_idle (h : Inv s) (hb : s.drv.busy = false) (hcfg : t.cfg = s.cfg) (hdrv : t.drv = s.drv)
    (shape : ShapeInv t) (pins : ∀ p < s.cfg.nPads, TwoStatePin (t.pin p)) (engine : EngineInv t) : Inv t where
  shape := shape
  pins := hcfg ▸ pins
  engine := engine
  driver := h.driver.of_eq hcfg hdrv fun hbusy => absurd hbusy (by simp [hb])
  position hbusy := absurd hbusy (by simp [hdrv, hb])

end

/-! ### Consequences of the invariant -/

section
variable {s : State}

theorem Inv.respond (h : Inv s) (r : Word) : Inv (s.respond r) := h.of_eq rfl rfl rfl rfl rfl rfl

theorem Inv.taken (h : Inv s) : Inv s.taken := h.of_eq rfl rfl rfl rfl rfl rfl

theorem Inv.afterSample (h : Inv s) (p : Nat) : Inv (s.afterSample p) := by
  apply h.of_eq <;> simp

/-- An acquired pin is one of the configured ones. -/
theorem ShapeInv.lt_of_acquired (h : ShapeInv s) {p : Nat} (hod : (s.pin p).od ≠ none) : p < s.cfg.nPads :=
  h.pins ▸ s.pin_lt_of_od hod

/-- `SetOd` on an acquired pin keeps I1 (R151, R152). -/
theorem Inv.pins_setOdAt (h : Inv s) {p : Nat} (hod : (s.pin p).od ≠ none) (o : Od) :
    ∀ q < s.cfg.nPads, TwoStatePin ((s.setOdAt p o).pin q) := by
  intro q hq
  by_cases hqp : q = p
  · subst hqp
    rw [s.pin_setOdAt_same o (h.shape.pins ▸ hq)]
    exact (h.pins q hq).setOd hod o
  · rw [s.pin_setOdAt_other o hqp]
    exact h.pins q hq

/-- `SetOd` on an acquired pin keeps I2: the Emulator owns the pin. -/
theorem Inv.engine_setOdAt (h : Inv s) {p : Nat} (hod : (s.pin p).od ≠ none) (o : Od) :
    EngineInv (s.setOdAt p o) := by
  have howner := (h.pins p (h.shape.lt_of_acquired hod)).owner_of_acquired hod
  refine h.engine.of_eq rfl rfl (fun q => State.pin_updPin_field Pin.owner s p q _ fun _ => rfl)
    (fun q => State.pin_updPin_field Pin.out s p q _ fun _ => rfl) fun q _ hq => ?_
  have hqp : q ≠ p := fun e => hq (e ▸ howner)
  rw [s.pin_setOdAt_other o hqp]

end

end Sys2Proof.Machine
end

section
/-! SUPPORT. `DriverTick` and the invariant (spec/43_bus_driver.md R221): what a tick that does not end the
transaction leaves, and where the position registers stand after each of its cases. -/

namespace Sys2Proof.Machine

variable {s t : State}

/-! ### A tick ends the transaction, or the transaction goes on -/

/-- From `s` to `t` the transaction goes on: `busy`, the operands, `drv.err`, `TXBUF` and the response are as before,
and of the pins at most the bus pin's `od` and `oe` are written, by `SetOd`. -/
structure GoesOn (s t : State) : Prop where
  cfg : t.cfg = s.cfg
  pins : t.pins = s.pins ∨ ∃ o, t.pins = (s.setOd o).pins
  txbuf : t.txbuf = s.txbuf
  rsp : t.rsp = s.rsp
  sel : t.drv.sel = s.drv.sel
  cmd : t.drv.cmd = s.drv.cmd
  n : t.drv.n = s.drv.n
  err : t.drv.err = s.drv.err
  busy : t.drv.busy = s.drv.busy

theorem countDown_goesOn (s : State) : GoesOn s (countDown s) :=
  ⟨rfl, .inl rfl, rfl, rfl, rfl, rfl, rfl, rfl, rfl⟩

theorem goTo_goesOn (st : DrvStep) (c : BitVec 32) (s : State) : GoesOn s (goTo st c s) :=
  ⟨rfl, .inl rfl, rfl, rfl, rfl, rfl, rfl, rfl, rfl⟩

theorem goTo_setOd_goesOn (st : DrvStep) (c : BitVec 32) (o : Od) (s : State) : GoesOn s (goTo st c (s.setOd o)) :=
  ⟨rfl, .inr ⟨o, rfl⟩, rfl, rfl, rfl, rfl, rfl, rfl, rfl⟩

theorem beginByte_goesOn (k : BitVec 9) (s : State) : GoesOn s (beginByte k s) :=
  ⟨rfl, .inr ⟨(cellOf s.cfg (frameByte s k.toNat) 0).1, rfl⟩, rfl, rfl, rfl, rfl, rfl, rfl, rfl⟩

/-- The writes of `byteOut` before it goes to a step of the ack slot: the line released, the CRC, the bit count. -/
def byteSent (s : State) : State :=
  { s.setOd .released with
    drv := { s.drv with
      crc := if s.drv.byte.toNat ≤ s.drv.n.toNat + 1 then crcUpdate s.cfg s.drv.crc (frameByte s s.drv.byte.toNat)
             else s.drv.crc
      bit := 8#4 } }

theorem byteOut_eq (s : State) : byteOut s =
    if s.cfg.tAckDelay = 0#32 then goTo .ackWait s.cfg.tTimeout (byteSent s)
    else goTo .ackDelay s.cfg.tAckDelay (byteSent s) := rfl

theorem goTo_byteSent_goesOn (st : DrvStep) (c : BitVec 32) (s : State) : GoesOn s (goTo st c (byteSent s)) :=
  ⟨rfl, .inr ⟨.released, rfl⟩, rfl, rfl, rfl, rfl, rfl, rfl, rfl⟩

theorem byteOut_goesOn (s : State) : GoesOn s (byteOut s) := by
  rw [byteOut_eq]
  split <;> exact goTo_byteSent_goesOn ..

/-- The writes of `tickBitSecond` where the byte has another cell. -/
def nextCell (s : State) : State :=
  { s.setOd (curCell s (s.drv.bit.toNat + 1)).1 with
    drv := { s.drv with bit := s.drv.bit + 1#4, step := .bitFirst, cnt := s.cfg.tHalf } }

theorem tickBitSecond_eq (s : State) : tickBitSecond s =
    if 1#32 < s.drv.cnt then countDown s else if s.drv.bit < 7#4 then nextCell s else byteOut s := rfl

theorem nextCell_goesOn (s : State) : GoesOn s (nextCell s) :=
  ⟨rfl, .inr ⟨(curCell s (s.drv.bit.toNat + 1)).1, rfl⟩, rfl, rfl, rfl, rfl, rfl, rfl, rfl⟩

theorem tickBitSecond_goesOn (s : State) : GoesOn s (tickBitSecond s) := by
  rw [tickBitSecond_eq]
  split
  · exact countDown_goesOn s
  · split
    · exact nextCell_goesOn s
    · exact byteOut_goesOn s

/-- How a transaction can end: `Idle` with no error, or `Error` with one of the two protocol errors (R211, R218). -/
def EndsAs (st : DrvState) (e : Status) : Prop :=
  (st = .idle ∧ e = .ok) ∨ (st = .error ∧ (e = .noAcknowledge ∨ e = .busTimeout))

theorem slotDone_ends_or_goesOn (s : State) :
    (∃ st e, EndsAs st e ∧ slotDone s = endTransaction st e s) ∨ GoesOn s (slotDone s) := by
  unfold slotDone
  split
  · exact .inr (beginByte_goesOn _ s)
  · split
    · exact .inl ⟨_, _, .inl ⟨rfl, rfl⟩, rfl⟩
    · exact .inr ⟨rfl, .inl rfl, rfl, rfl, rfl, rfl, rfl, rfl, rfl⟩

theorem driverTick_ends_or_goesOn (x : Bool) (s : State) :
    (∃ st e, EndsAs st e ∧ driverTick x s = endTransaction st e s) ∨ GoesOn s (driverTick x s) := by
  rcases driverTick_cases x s with ⟨h, -⟩ | ⟨-, -, h⟩ | ⟨-, -, h⟩ | ⟨-, -, -, h⟩ | ⟨-, -, h⟩ | ⟨-, -, h⟩ | ⟨-, -, h⟩ |
    ⟨-, -, h⟩ | ⟨-, -, -, h⟩ | ⟨-, -, h⟩ | ⟨-, -, -, h⟩ | ⟨-, -, h⟩ <;> rw [h]
  · exact .inr (countDown_goesOn s)
  · exact .inr (goTo_setOd_goesOn ..)
  · exact .inr (beginByte_goesOn ..)
  · exact .inl ⟨_, _, .inr ⟨rfl, .inr rfl⟩, rfl⟩
  · exact .inr (goTo_setOd_goesOn ..)
  · exact .inr (tickBitSecond_goesOn s)
  · exact .inr (goTo_goesOn ..)
  · exact .inr (goTo_goesOn ..)
  · exact .inl ⟨_, _, .inr ⟨rfl, .inl rfl⟩, rfl⟩
  · exact slotDone_ends_or_goesOn s
  · exact .inl ⟨_, _, .inr ⟨rfl, .inr rfl⟩, rfl⟩
  · exact .inl ⟨_, _, .inl ⟨rfl, rfl⟩, rfl⟩

/-! ### The bytes of the frame -/

theorem crcBytes_length (s : State) : (crcBytes s).length = s.drv.n.toNat + 2 := by
  simp [crcBytes, dataBytes]

/-- Up to the last data byte the byte in hand is the next one the CRC covers (R105, R221). -/
theorem crcBytes_getElem? {k : Nat} (h : k ≤ s.drv.n.toNat + 1) : (crcBytes s)[k]? = some (frameByte s k) := by
  match k with
  | 0 => rfl
  | 1 => rfl
  | k + 2 =>
    have hk : k < s.drv.n.toNat := by omega
    simp [crcBytes, dataBytes, frameByte, Nat.lt_iff_add_one_le.1 hk]

theorem crcRun_take_succ (c : Cfg) {bytes : List Byte} {k : Nat} {b : Byte} (h : bytes[k]? = some b) :
    crcRun c (bytes.take (k + 1)) = crcUpdate c (crcRun c (bytes.take k)) b := by
  simp [crcRun, List.take_add_one, h]

theorem GoesOn.crcBytes_eq (g : GoesOn s t) : crcBytes t = crcBytes s := by
  simp only [crcBytes, dataBytes, g.sel, g.cmd, g.n, g.txbuf]

theorem bytesOut_of_bit_lt (h : s.drv.bit < 8#4) : bytesOut s = s.drv.byte.toNat := by
  simp [bytesOut, BitVec.ne_of_lt h]

theorem bytesOut_of_bit_eq (h : s.drv.bit = 8#4) : bytesOut s = s.drv.byte.toNat + 1 := by
  simp [bytesOut, h]

/-! ### The position registers, case by case -/

/-- What is left to say of the position registers when the transaction goes on. -/
theorem PositionInv.onward (h : PositionInv s) (g : GoesOn s t) (hbyte : t.drv.byte.toNat ≤ s.drv.n.toNat + 2)
    (hcnt : t.drv.cnt ≠ 0#32) (hcrc : t.drv.crc = crcRun s.cfg ((crcBytes s).take (bytesOut t)))
    (hpos : PositionOf t t.drv.step) : PositionInv t where
  count := by simpa only [g.n, g.cfg] using h.count
  written := by simpa only [g.n, g.txbuf] using h.written
  byteRange := by simpa only [g.n] using hbyte
  counting := hcnt
  crc := by simpa only [g.crcBytes_eq, g.cfg] using hcrc
  position := hpos

theorem holds_of_pins_eq_setOd (s : State) {o : Od} (hcfg : t.cfg = s.cfg) (hbus : (s.pin s.cfg.busPin).od ≠ none)
    (h : t.pins = (s.setOd o).pins) : Holds t o := by
  have hpin : t.pin t.cfg.busPin = (s.setOd o).pin s.cfg.busPin := by simp only [State.pin, h, hcfg]
  rw [Holds, hpin]
  exact congrArg Pin.od (s.pin_setOdAt_same o (s.pin_lt_of_od hbus))

theorem Holds.od_ne_none {o : Od} (h : Holds s o) : (s.pin s.cfg.busPin).od ≠ none :=
  fun hnone => nomatch h.symm.trans hnone

theorem countDown_position (h : PositionInv s) (hne : s.drv.cnt ≠ 1#32) : PositionInv (countDown s) := by
  have hcnt := h.counting
  refine h.onward (countDown_goesOn s) h.byteRange ?_ h.crc ?_
  · rw [countDown_drv_cnt]
    bv_omega
  · have hle : ∀ b : BitVec 32, s.drv.cnt ≤ b → s.drv.cnt - 1#32 ≤ b := fun b hb => by bv_omega
    have hpos := h.position
    rw [countDown_drv_step]
    revert hpos
    cases s.drv.step <;> simp only [PositionOf] <;> intro hpos
    case startLow | startRise | standby =>
      obtain ⟨h1, h2, h3, h4, hc⟩ := hpos
      exact ⟨h1, h2, h3, h4, hle _ hc⟩
    case bitFirst | bitSecond | ackDelay | ackWait | ackRise =>
      obtain ⟨h1, h2, h3, hc⟩ := hpos
      exact ⟨h1, h2, h3, hle _ hc⟩

/-- A new byte begins after `k` bytes: its first cell is on the line, and the CRC covers the bytes before it. -/
theorem beginByte_position (h : PositionInv s) (hl : Cfg.legal s.cfg = true) (hbus : (s.pin s.cfg.busPin).od ≠ none)
    {k : BitVec 9} (hk : k.toNat ≤ s.drv.n.toNat + 2)
    (hcrc : s.drv.crc = crcRun s.cfg ((crcBytes s).take k.toNat)) : PositionInv (beginByte k s) := by
  obtain ⟨-, -, -, hhalf, -⟩ := legal_bus hl
  exact h.onward (beginByte_goesOn k s) hk hhalf hcrc
    ⟨rfl, (by decide : 0#4 < 8#4), holds_of_pins_eq_setOd s rfl hbus rfl, BitVec.le_refl _⟩

theorem bitFirst_position (h : PositionInv s) (hl : Cfg.legal s.cfg = true) (hbus : (s.pin s.cfg.busPin).od ≠ none)
    (hs : s.drv.step = .bitFirst) :
    PositionInv (goTo .bitSecond s.cfg.tHalf (s.setOd (curCell s s.drv.bit.toNat).2)) := by
  obtain ⟨-, -, -, hhalf, -⟩ := legal_bus hl
  have hpos := h.position
  rw [hs] at hpos
  obtain ⟨hstate, hbit, -, -⟩ := hpos
  exact h.onward (goTo_setOd_goesOn ..) h.byteRange hhalf h.crc
    ⟨hstate, hbit, holds_of_pins_eq_setOd s rfl hbus rfl, BitVec.le_refl _⟩

/-- The byte is out: the CRC covers one more byte, unless it was the CRC byte itself (R105). -/
theorem byteSent_crc (h : PositionInv s) (hbit : s.drv.bit < 8#4) :
    (byteSent s).drv.crc = crcRun s.cfg ((crcBytes s).take (s.drv.byte.toNat + 1)) := by
  have hout := bytesOut_of_bit_lt hbit
  have hlen := crcBytes_length s
  simp only [byteSent]
  split
  · rename_i hle
    rw [crcRun_take_succ _ (crcBytes_getElem? hle), h.crc, hout]
  · rename_i hgt
    rw [h.crc, hout, List.take_of_length_le (by omega), List.take_of_length_le (by omega)]

/-- The last cell is out and its ack slot begins, with the delay or, where that is 0, with the wait (R210). -/
theorem byteOut_position (h : PositionInv s) (hl : Cfg.legal s.cfg = true) (hbus : (s.pin s.cfg.busPin).od ≠ none)
    (hstate : s.drv.state = phaseOf s.drv.n.toNat s.drv.byte.toNat) (hbit : s.drv.bit < 8#4) :
    PositionInv (byteOut s) := by
  obtain ⟨-, -, -, -, htimeout, -⟩ := legal_bus hl
  have hcrc := byteSent_crc h hbit
  rw [byteOut_eq]
  split
  · exact h.onward (goTo_byteSent_goesOn ..) h.byteRange htimeout hcrc
      ⟨hstate, rfl, holds_of_pins_eq_setOd s rfl hbus rfl, BitVec.le_refl _⟩
  · rename_i hdelay
    exact h.onward (goTo_byteSent_goesOn ..) h.byteRange hdelay hcrc
      ⟨hstate, rfl, holds_of_pins_eq_setOd s rfl hbus rfl, BitVec.le_refl _⟩

theorem nextCell_position (h : PositionInv s) (hl : Cfg.legal s.cfg = true) (hbus : (s.pin s.cfg.busPin).od ≠ none)
    (hstate : s.drv.state = phaseOf s.drv.n.toNat s.drv.byte.toNat) (hbit : s.drv.bit < 7#4) :
    PositionInv (nextCell s) := by
  obtain ⟨-, -, -, hhalf, -⟩ := legal_bus hl
  have hsucc : (nextCell s).drv.bit.toNat = s.drv.bit.toNat + 1 := by simp only [nextCell]; bv_omega
  have hlt : (nextCell s).drv.bit < 8#4 := by simp only [nextCell]; bv_omega
  have hout : bytesOut (nextCell s) = bytesOut s := by
    rw [bytesOut_of_bit_lt hlt, bytesOut_of_bit_lt (show s.drv.bit < 8#4 by bv_omega)]
    rfl
  refine h.onward (nextCell_goesOn s) h.byteRange hhalf (hout ▸ h.crc) ⟨hstate, hlt, ?_, BitVec.le_refl _⟩
  rw [hsucc]
  exact holds_of_pins_eq_setOd s rfl hbus rfl

theorem tickBitSecond_position (h : PositionInv s) (hl : Cfg.legal s.cfg = true)
    (hbus : (s.pin s.cfg.busPin).od ≠ none) (hs : s.drv.step = .bitSecond) (hcnt : ¬ 1#32 < s.drv.cnt) :
    PositionInv (tickBitSecond s) := by
  have hpos := h.position
  rw [hs] at hpos
  obtain ⟨hstate, hbit, -, -⟩ := hpos
  rw [tickBitSecond_eq, if_neg hcnt]
  split
  · exact nextCell_position h hl hbus hstate ‹_›
  · exact byteOut_position h hl hbus hstate hbit

/-- The ack slot is over: the CRC covers the byte it ends, or the byte was the CRC byte (R217, R221). -/
theorem slotDone_position (h : PositionInv s) (hl : Cfg.legal s.cfg = true) (hbus : (s.pin s.cfg.busPin).od ≠ none)
    (hs : s.drv.step = .ackRise) (hbusy : (slotDone s).drv.busy = true) : PositionInv (slotDone s) := by
  have hrange := h.byteRange
  have hpos := h.position
  rw [hs] at hpos
  obtain ⟨-, hbit, hline, -⟩ := hpos
  have hout := bytesOut_of_bit_eq hbit
  unfold slotDone at hbusy ⊢
  split
  · rename_i hlt
    have hsucc : (s.drv.byte + 1#9).toNat = s.drv.byte.toNat + 1 := by bv_omega
    exact beginByte_position h hl hbus (by omega) (by rw [hsucc, ← hout]; exact h.crc)
  · rename_i hlast
    split
    · rename_i hstandby
      rw [if_neg hlast, if_pos hstandby] at hbusy
      cases hbusy
    · rename_i hstandby
      exact h.onward ⟨rfl, .inl rfl, rfl, rfl, rfl, rfl, rfl, rfl, rfl⟩ hrange hstandby h.crc
        ⟨rfl, by simp only; omega, hbit, hline, BitVec.le_refl _⟩

theorem driverTick_position (h : PositionInv s) (hl : Cfg.legal s.cfg = true) (hbus : (s.pin s.cfg.busPin).od ≠ none)
    (x : Bool) (hbusy : (driverTick x s).drv.busy = true) : PositionInv (driverTick x s) := by
  obtain ⟨-, -, -, hhalf, htimeout, -⟩ := legal_bus hl
  have hpos := h.position
  rcases driverTick_cases x s with ⟨e, hcnt⟩ | ⟨hs, -, e⟩ | ⟨hs, -, e⟩ | ⟨-, -, -, e⟩ | ⟨hs, -, e⟩ | ⟨hs, hcnt, e⟩ |
    ⟨hs, -, e⟩ | ⟨hs, -, e⟩ | ⟨-, -, -, e⟩ | ⟨hs, -, e⟩ | ⟨-, -, -, e⟩ | ⟨-, -, e⟩ <;> rw [e] at hbusy ⊢
  · exact countDown_position h hcnt
  · rw [hs] at hpos
    obtain ⟨hstate, -, hbyte, hbit, -⟩ := hpos
    exact h.onward (goTo_setOd_goesOn ..) h.byteRange htimeout h.crc
      ⟨hstate, holds_of_pins_eq_setOd s rfl hbus rfl, hbyte, hbit, BitVec.le_refl _⟩
  · rw [hs] at hpos
    obtain ⟨-, -, hbyte, hbit, -⟩ := hpos
    have hout : bytesOut s = 0 := by simp [bytesOut, hbyte, hbit]
    exact beginByte_position h hl hbus (Nat.zero_le _) (h.crc.trans (by rw [hout]; rfl))
  · cases hbusy
  · exact bitFirst_position h hl hbus hs
  · exact tickBitSecond_position h hl hbus hs hcnt
  · rw [hs] at hpos
    obtain ⟨hstate, hbit, hline, -⟩ := hpos
    exact h.onward (goTo_goesOn ..) h.byteRange htimeout h.crc ⟨hstate, hbit, hline, BitVec.le_refl _⟩
  · rw [hs] at hpos
    obtain ⟨hstate, hbit, hline, -⟩ := hpos
    exact h.onward (goTo_goesOn ..) h.byteRange htimeout h.crc ⟨hstate, hbit, hline, BitVec.le_refl _⟩
  · cases hbusy
  · exact slotDone_position h hl hbus hs hbusy
  · cases hbusy
  · cases hbusy

/-! ### The invariant -/

theorem phaseOf_inTransaction (n k : Nat) : (phaseOf n k).inTransaction = true := by
  unfold phaseOf
  split_ifs <;> rfl

theorem PositionInv.inTransaction (h : PositionInv s) : s.drv.state.inTransaction = true := by
  have hpos := h.position
  revert hpos
  cases s.drv.step <;> rintro ⟨hstate, -⟩ <;> rw [hstate]
  case startLow | startRise | standby => rfl
  case bitFirst | bitSecond | ackDelay | ackWait | ackRise => exact phaseOf_inTransaction ..

/-- I1 and I2 where of the pins at most the acquired bus pin has been written, by `SetOd`. -/
theorem Inv.pins_engine_of_line (h : Inv s) (hbus : (s.pin s.cfg.busPin).od ≠ none) (hcfg : t.cfg = s.cfg)
    (heng : t.eng = s.eng) (hpins : t.pins = s.pins ∨ ∃ o, t.pins = (s.setOd o).pins) :
    (∀ p < s.cfg.nPads, TwoStatePin (t.pin p)) ∧ EngineInv t := by
  rcases hpins with hpins | ⟨o, hpins⟩
  · have hpin : ∀ p, t.pin p = s.pin p := fun p => by simp only [State.pin, hpins]
    refine ⟨by simpa only [hpin] using h.pins, h.engine.of_eq hcfg heng ?_ ?_ ?_⟩ <;> simp [hpin]
  · have hpin : ∀ p, t.pin p = (s.setOdAt s.cfg.busPin o).pin p := fun p => by simp only [State.pin, hpins]; rfl
    refine ⟨by simpa only [hpin] using h.pins_setOdAt hbus o, (h.engine_setOdAt hbus o).of_eq hcfg heng ?_ ?_ ?_⟩ <;>
      simp [hpin]

theorem endTransaction_inv (h : Inv s) (hbus : (s.pin s.cfg.busPin).od ≠ none) {st : DrvState} {e : Status}
    (he : EndsAs st e) : Inv (endTransaction st e s) := by
  obtain ⟨hpins, heng⟩ := h.pins_engine_of_line (t := endTransaction st e s) hbus rfl rfl (.inr ⟨.released, rfl⟩)
  refine ⟨?_, hpins, heng, ?_, nofun⟩
  · obtain ⟨hl, hlen, hwords, hwidth, -, -⟩ := h.shape
    exact ⟨hl, (List.length_modify ..).trans hlen, hwords, hwidth, rfl, nofun⟩
  · rcases he with ⟨rfl, rfl⟩ | ⟨rfl, he⟩
    · exact ⟨nofun, rfl, nofun, fun _ => rfl⟩
    · exact ⟨nofun, rfl, fun _ => he, fun hne => absurd rfl hne⟩

theorem DrvState.ne_error_of_inTransaction {st : DrvState} (h : st.inTransaction = true) : st ≠ .error := by
  rintro rfl
  cases h

theorem driverTick_inv (h : Inv s) (hb : s.drv.busy = true) (x : Bool) : Inv (driverTick x s) := by
  obtain ⟨hbus, hgrp⟩ := h.driver.busPin hb
  rcases driverTick_ends_or_goesOn x s with ⟨st, e, he, heq⟩ | g
  · rw [heq]
    exact endTransaction_inv h hbus he
  · have hsame := driverTick_same x s
    have hbusy := g.busy.trans hb
    have hpos := driverTick_position (h.position hb) h.shape.legal hbus x hbusy
    obtain ⟨hpins, heng⟩ := h.pins_engine_of_line hbus hsame.cfg hsame.eng g.pins
    have hlt := h.shape.lt_of_acquired hbus
    have howner := (h.pins _ hlt).owner_of_acquired hbus
    have herr : s.drv.err = .ok :=
      h.driver.okElsewhere (DrvState.ne_error_of_inTransaction (h.driver.busy.symm.trans hb))
    refine ⟨h.shape.of_eq hsame.cfg hsame.length hsame.padreg g.txbuf, hsame.cfg ▸ hpins, heng, ?_, fun _ => hpos⟩
    refine ⟨fun _ => ?_, hbusy.trans hpos.inTransaction.symm,
      fun hs => absurd hs (DrvState.ne_error_of_inTransaction hpos.inTransaction), fun _ => g.err.trans herr⟩
    rw [hsame.cfg, ne_eq, (hpins _ hlt).od_eq_none_iff, hsame.owner, howner]
    exact ⟨by simp, hgrp⟩

end Sys2Proof.Machine
end

section
/-! SUPPORT. What a clock cycle leaves unchanged, stage by stage (spec/10_state.md R42; spec/20_memory.md R75;
spec/43_bus_driver.md R221): O49. -/

namespace Sys2Proof.Machine

variable {s : State}

/-- The state the driver ticks from: the line sampled, no response presented, the engine's tick done (R42). -/
def beforeDriver (s : State) : State := engineStage (busSampled s).silent

theorem tick_eq (s : State) : tick s = (driverStage (s.sampleValue s.cfg.busPin) (beforeDriver s)).nextCycle := rfl

/-! ### The stages before the driver's -/

theorem busSampled_eq (s : State) : busSampled s = { s with draws := (busSampled s).draws } := by
  unfold busSampled
  split
  · exact s.afterSample_eq _
  · rfl

theorem engineStage_same (s : State) :
    (engineStage s).cfg = s.cfg ∧ (engineStage s).padreg = s.padreg ∧ (engineStage s).txbuf = s.txbuf ∧
    (engineStage s).drv = s.drv ∧ (engineStage s).cyc = s.cyc ∧ (engineStage s).env = s.env ∧
    (engineStage s).host = s.host ∧ (engineStage s).rsp = s.rsp := by
  unfold engineStage
  split
  · obtain ⟨hcfg, hpad, htx, hdrv, hcyc, henv, hhost, -, hrsp, -⟩ := engineTick_same s
    exact ⟨hcfg, hpad, htx, hdrv, hcyc, henv, hhost, hrsp⟩
  · exact ⟨rfl, rfl, rfl, rfl, rfl, rfl, rfl, rfl⟩

theorem engineStage_pin (s : State) (q : Nat) :
    ((engineStage s).pin q).oe = (s.pin q).oe ∧ ((engineStage s).pin q).ovr = (s.pin q).ovr ∧
    ((engineStage s).pin q).od = (s.pin q).od ∧ ((engineStage s).pin q).owner = (s.pin q).owner ∧
    (¬ EnginePin s q → (engineStage s).pin q = s.pin q) := by
  unfold engineStage
  split
  · rename_i hr
    obtain ⟨hoe, hovr, hod, howner, hother⟩ := engineTick_pin s q
    exact ⟨hoe, hovr, hod, howner, fun hq => hother fun e => hq ⟨hr, e.symm⟩⟩
  · exact ⟨rfl, rfl, rfl, rfl, fun _ => rfl⟩

theorem beforeDriver_same (s : State) :
    (beforeDriver s).cfg = s.cfg ∧ (beforeDriver s).padreg = s.padreg ∧ (beforeDriver s).txbuf = s.txbuf ∧
    (beforeDriver s).drv = s.drv ∧ (beforeDriver s).cyc = s.cyc ∧ (beforeDriver s).env = s.env ∧
    (beforeDriver s).host = s.host ∧ (beforeDriver s).rsp = none := by
  rw [beforeDriver, busSampled_eq]
  exact engineStage_same _

theorem beforeDriver_pin (s : State) (q : Nat) :
    ((beforeDriver s).pin q).oe = (s.pin q).oe ∧ ((beforeDriver s).pin q).ovr = (s.pin q).ovr ∧
    ((beforeDriver s).pin q).od = (s.pin q).od ∧ ((beforeDriver s).pin q).owner = (s.pin q).owner ∧
    (¬ EnginePin s q → (beforeDriver s).pin q = s.pin q) := by
  rw [beforeDriver, busSampled_eq]
  exact engineStage_pin _ q

/-! ### The driver's stage -/

theorem SameBesideDriver.refl (s : State) : SameBesideDriver s s := .of_pins_eq rfl rfl rfl rfl rfl rfl rfl rfl

theorem driverStage_same (x : Bool) (s : State) : SameBesideDriver s (driverStage x s) := by
  unfold driverStage
  split
  · exact driverTick_same x s
  · exact .refl s

theorem driverStage_of_idle (hb : s.drv.busy = false) (x : Bool) : driverStage x s = s := by
  simp [driverStage, hb]

/-- A driver that is busy after its stage was busy before it, and its transaction goes on. -/
theorem driverStage_goesOn {x : Bool} (hb : (driverStage x s).drv.busy = true) : GoesOn s (driverStage x s) := by
  unfold driverStage at hb ⊢
  split at hb
  · rename_i hs
    rw [if_pos hs]
    rcases driverTick_ends_or_goesOn x s with ⟨st, e, -, heq⟩ | g
    · rw [heq] at hb
      cases hb
    · exact g
  · exact absurd hb ‹_›

/-! ### The whole tick -/

/-- A clock cycle ends with `nextCycle`; no stage before it touches time or a schedule (R42). -/
theorem tick_schedule (s : State) :
    (tick s).cyc = s.cyc + 1 ∧ (tick s).env = s.env.tail ∧ (tick s).host = s.hostAfterCycle := by
  obtain ⟨-, -, -, -, hcyc, henv, hhost, -⟩ := beforeDriver_same s
  have hdriver := driverStage_same (s.sampleValue s.cfg.busPin) (beforeDriver s)
  rw [tick_eq]
  simp [State.hostAfterCycle, hdriver.cyc, hdriver.env, hdriver.host, hcyc, henv, hhost]

theorem tick_padreg (s : State) : (tick s).padreg = s.padreg := by
  obtain ⟨-, hpad, -⟩ := beforeDriver_same s
  exact (driverStage_same _ _).padreg.trans hpad

theorem tick_pin (s : State) (p : Nat) :
    ((tick s).pin p).ovr = (s.pin p).ovr ∧ ((tick s).pin p).owner = (s.pin p).owner ∧
    (¬ EnginePin s p → ((tick s).pin p).out = (s.pin p).out) ∧
    (¬ (s.drv.busy = true ∧ p = s.cfg.busPin) →
      ((tick s).pin p).od = (s.pin p).od ∧ ((tick s).pin p).oe = (s.pin p).oe) := by
  obtain ⟨hcfg, -, -, hdrv, -⟩ := beforeDriver_same s
  obtain ⟨hoe, hovr, hod, howner, hother⟩ := beforeDriver_pin s p
  have hdriver := driverStage_same (s.sampleValue s.cfg.busPin) (beforeDriver s)
  rw [tick_eq, State.pin_nextCycle]
  refine ⟨(hdriver.ovr p).trans hovr, (hdriver.owner p).trans howner,
    fun hp => (hdriver.out p).trans (by rw [hother hp]), fun hp => ?_⟩
  have hpin : (driverStage (s.sampleValue s.cfg.busPin) (beforeDriver s)).pin p = (beforeDriver s).pin p := by
    cases hb : s.drv.busy with
    | false => rw [driverStage_of_idle (hdrv ▸ hb)]
    | true => exact hdriver.others p fun e => hp ⟨hb, e.trans (by rw [hcfg])⟩
  rw [hpin]
  exact ⟨hod, hoe⟩

theorem tick_of_idle (hb : s.drv.busy = false) :
    (tick s).drv = s.drv ∧ (tick s).txbuf = s.txbuf ∧ (tick s).rsp = none := by
  obtain ⟨-, -, htx, hdrv, -, -, -, hrsp⟩ := beforeDriver_same s
  rw [tick_eq, driverStage_of_idle (hdrv ▸ hb)]
  exact ⟨hdrv, htx, hrsp⟩

theorem tick_of_goesOn (hb : (tick s).drv.busy = true) :
    (tick s).txbuf = s.txbuf ∧ (tick s).rsp = none ∧ (tick s).drv.sel = s.drv.sel ∧ (tick s).drv.cmd = s.drv.cmd ∧
    (tick s).drv.n = s.drv.n ∧ (tick s).drv.err = s.drv.err := by
  obtain ⟨-, -, htx, hdrv, -, -, -, hrsp⟩ := beforeDriver_same s
  have g := driverStage_goesOn (s := beforeDriver s) hb
  rw [← hdrv]
  exact ⟨g.txbuf.trans htx, g.rsp.trans hrsp, g.sel, g.cmd, g.n, g.err⟩

/-- Settles O49: the frame of the engine's stage and of the driver's, one after the other. -/
theorem tickFrame : Obligations.TickFrame := fun s =>
  ⟨tick_cfg s, tick_padreg s, (tick_schedule s).1, tick_pin s, tick_of_idle, fun _ => tick_of_goesOn⟩

end Sys2Proof.Machine
end

section
/-! SUPPORT. The clock, a reset cycle and the launch state keep the invariant (spec/10_state.md R42, R45;
spec/70_reset_and_hazards.md R300). -/

namespace Sys2Proof.Machine

variable {s t : State}

/-- `EngineTick` keeps the engine's program and whether it runs (R174). -/
theorem engineTick_eng (s : State) :
    (engineTick s).eng.run = s.eng.run ∧ (engineTick s).eng.cfgd = s.eng.cfgd ∧
    (engineTick s).eng.pin = s.eng.pin ∧ (engineTick s).eng.half = s.eng.half := by
  rcases engineTick_cases s with ⟨-, h⟩ | ⟨-, h⟩ <;> rw [h] <;> exact ⟨rfl, rfl, rfl, rfl⟩

/-- After `EngineTick` the engine's pin still has the engine's level as its `out`, and a cycle is left (R38, R174). -/
theorem engineTick_level (h : Inv s) (hr : s.eng.run = true) :
    ((engineTick s).pin s.eng.pin.toNat).out = (engineTick s).eng.lvl ∧ 1 ≤ (engineTick s).eng.cnt.toNat ∧
    (engineTick s).eng.cnt.toNat ≤ s.eng.half.toNat := by
  obtain ⟨hconf, -, hout, hcnt, hle⟩ := h.engine.running hr
  obtain ⟨hlt, hhalf⟩ := h.engine.configured hconf
  rcases engineTick_cases s with ⟨-, e⟩ | ⟨hne, e⟩ <;> rw [e]
  · exact ⟨congrArg Pin.out (s.pin_updPin_same _ (h.shape.pins ▸ hlt)), hhalf, le_rfl⟩
  · have hsub : (s.eng.cnt - 1#16).toNat = s.eng.cnt.toNat - 1 := by bv_omega
    have hgt : 1 < s.eng.cnt.toNat := by bv_omega
    refine ⟨hout, ?_, ?_⟩ <;> simp only [hsub] <;> omega

theorem engineTick_engineInv (h : Inv s) (hr : s.eng.run = true) : EngineInv (engineTick s) := by
  obtain ⟨hcfg, -⟩ := engineTick_same s
  obtain ⟨hrun, hcfgd, hpin, hhalf⟩ := engineTick_eng s
  have henginePin : ∀ p, EnginePin (engineTick s) p ↔ EnginePin s p := fun p => by simp only [EnginePin, hrun, hpin]
  refine ⟨fun p hp => ?_, ?_, fun _ => ?_, fun p hp hne => ?_⟩
  · obtain ⟨-, -, -, howner, -⟩ := engineTick_pin s p
    rw [henginePin, howner]
    exact h.engine.owned p (hcfg ▸ hp)
  · simpa only [hcfgd, hpin, hhalf, hcfg] using h.engine.configured
  · obtain ⟨hconf, hoe, -⟩ := h.engine.running hr
    obtain ⟨hoe', -⟩ := engineTick_pin s s.eng.pin.toNat
    rw [hcfgd, hpin, hhalf, hoe']
    exact ⟨hconf, hoe, engineTick_level h hr⟩
  · rw [henginePin] at hne
    obtain ⟨-, -, -, -, hother⟩ := engineTick_pin s p
    rw [hother fun e => hne ⟨hr, e.symm⟩]
    exact h.engine.others p (hcfg ▸ hp) hne

theorem engineTick_inv (h : Inv s) (hr : s.eng.run = true) : Inv (engineTick s) := by
  obtain ⟨hcfg, hpad, htx, hdrv, -, -, -, -, -, hlen⟩ := engineTick_same s
  have hod : busOd (engineTick s) = busOd s := by
    obtain ⟨-, -, hod, -⟩ := engineTick_pin s s.cfg.busPin
    simpa only [busOd, hcfg] using hod
  refine ⟨h.shape.of_eq hcfg hlen hpad htx, fun p hp => ?_, engineTick_engineInv h hr,
    h.driver.of_eq hcfg hdrv fun _ => hod, ?_⟩
  · obtain ⟨hoe, hovr, hod, howner, -⟩ := engineTick_pin s p
    have hq := (h.pins p (hcfg ▸ hp)).withOut ((engineTick s).pin p).out
    rwa [← hoe, ← hovr, ← hod, ← howner] at hq
  · rw [hdrv]
    exact fun hb => (h.position hb).of_eq hcfg hdrv htx hod

theorem launch_pin (c : Cfg) (words : List Nat) (p : Nat) : (State.launch c words).pin p = Pin.atReset := by
  by_cases hp : p < c.nPads <;> simp [State.pin, State.launch, hp]

/-- 10_state.md section 7: nothing is acquired, owned or running at launch. -/
theorem launch_inv {c : Cfg} {words : List Nat} (hl : Cfg.legal c = true) (hw : LegalPadWords c words) :
    Inv (State.launch c words) where
  shape := ⟨hl, List.length_replicate, hw.1, hw.2, rfl, nofun⟩
  pins p _ := launch_pin c words p ▸ TwoStatePin.atReset
  engine := by
    refine ⟨fun p _ => ?_, nofun, nofun, fun p _ _ => ?_⟩ <;> rw [launch_pin]
    · exact ⟨nofun, nofun⟩
    · exact ⟨rfl, fun _ => rfl⟩
  driver := ⟨nofun, rfl, nofun, fun _ => rfl⟩
  position := nofun

theorem resetTick_inv (h : Inv s) : Inv (resetTick s) :=
  (launch_inv h.shape.legal ⟨h.shape.words, h.shape.wordWidth⟩).of_eq rfl rfl rfl rfl rfl rfl

theorem tick_inv (h : Inv s) : Inv (tick s) := by
  have hsampled : Inv (busSampled s).silent := by
    rw [busSampled_eq]
    exact h.of_eq rfl rfl rfl rfl rfl rfl
  have hengine : Inv (beforeDriver s) := by
    unfold beforeDriver engineStage
    split
    · exact engineTick_inv hsampled ‹_›
    · exact hsampled
  have hdriver : Inv (driverStage (s.sampleValue s.cfg.busPin) (beforeDriver s)) := by
    unfold driverStage
    split
    · exact driverTick_inv hengine ‹_› _
    · exact hengine
  exact hdriver.of_eq rfl rfl rfl rfl rfl rfl

end Sys2Proof.Machine
end

section
/-! SUPPORT. The operations keep the invariant, from a state in which no transaction runs (spec/10_state.md R37
to R41). -/

namespace Sys2Proof.Machine

variable {s t : State}

/-! ### Pad words and `TXBUF` -/

theorem Inv.memWrite (h : Inv s) (a : Nat) {v : Nat} (hv : v < 2 ^ s.cfg.padW) : Inv (s.memWrite a v) := by
  refine ⟨?_, h.pins, h.engine.of_eq rfl rfl (fun _ => rfl) (fun _ => rfl) fun _ _ _ => rfl,
    h.driver.of_eq rfl rfl fun _ => rfl, fun hb => (h.position hb).of_eq rfl rfl rfl rfl⟩
  obtain ⟨hl, hlen, hwords, hwidth, hwf, hrange⟩ := h.shape
  exact ⟨hl, hlen, List.length_set.trans hwords, memWrite_wordWidth s hwidth hv, hwf, hrange⟩

theorem Inv.setBit (h : Inv s) (a b : Nat) : Inv (s.setBit a b) := h.memWrite a (withBitSet_lt ..)

theorem Inv.clrBit (h : Inv s) (a b : Nat) : Inv (s.clrBit a b) := h.memWrite a (withBitClear_lt ..)

theorem execWrbuf_inv (h : Inv s) (hb : s.drv.busy = false) {k : Nat} {byte : Byte}
    (ht : execWrbuf k byte s = .next t) : Inv t := by
  obtain ⟨-, rfl⟩ | ⟨hk, rfl⟩ := execWrbuf_cases ht
  · exact h.respond _
  · refine h.of_idle hb rfl rfl ?_ h.pins (h.engine.of_eq rfl rfl (fun _ => rfl) (fun _ => rfl) fun _ _ _ => rfl)
    obtain ⟨hl, hlen, hwords, hwidth, hwf, hrange⟩ := h.shape
    refine ⟨hl, hlen, hwords, hwidth, Memory.wf_write hwf k byte, fun c hc => ?_⟩
    rcases Memory.mem_write hc with rfl | hc
    · exact hk
    · exact hrange c hc

/-! ### The pins of the Emulator -/

theorem acquired_iff {p : Nat} : acquired s p = true ↔ p < s.cfg.nPads ∧ (s.pin p).od ≠ none := by
  simp [acquired, Option.isSome_iff_ne_none]

theorem Inv.setOdAt (h : Inv s) (hb : s.drv.busy = false) {p : Nat} (hod : (s.pin p).od ≠ none) (o : Od) :
    Inv (s.setOdAt p o) :=
  h.of_idle hb rfl rfl (h.shape.of_eq rfl (List.length_modify ..) rfl rfl) (h.pins_setOdAt hod o)
    (h.engine_setOdAt hod o)

/-- A pin that nobody owns is claimed (R150). -/
theorem acquirePin_inv (h : Inv s) (hb : s.drv.busy = false) {p : Nat} (hp : p < s.cfg.nPads)
    (howner : (s.pin p).owner = .nobody) : Inv (acquirePin s p) := by
  have hsame : (acquirePin s p).pin p =
      { ovr := true, oe := false, out := false, owner := .emulator, od := some .released } :=
    State.pin_updPin_same _ _ (h.shape.pins ▸ hp)
  have hother : ∀ q, q ≠ p → (acquirePin s p).pin q = s.pin q := fun q hq => State.pin_updPin_other _ _ hq
  have hnot : ¬ EnginePin s p := fun he => by simp [(h.engine.owned p hp).2 he] at howner
  refine h.of_idle hb rfl rfl
    ((h.setBit (padWordOf s.cfg p) (pueBitOf s.cfg p)).shape.of_eq rfl (List.length_modify ..) rfl rfl) ?_ ?_
  · intro q hq
    by_cases hqp : q = p
    · rw [hqp, hsame]
      exact TwoStatePin.acquired
    · rw [hother q hqp]
      exact h.pins q hq
  · refine ⟨fun q hq => ?_, h.engine.configured, fun hr => ?_, fun q hq hne => ?_⟩
    · by_cases hqp : q = p
      · subst hqp
        rw [hsame]
        exact ⟨nofun, fun he => absurd he hnot⟩
      · rw [hother q hqp]
        exact h.engine.owned q hq
    · have hne : s.eng.pin.toNat ≠ p := fun e => hnot ⟨hr, e⟩
      have hpin : (acquirePin s p).pin (acquirePin s p).eng.pin.toNat = s.pin s.eng.pin.toNat := hother _ hne
      rw [hpin]
      exact h.engine.running hr
    · by_cases hqp : q = p
      · rw [hqp, hsame]
        exact ⟨rfl, nofun⟩
      · rw [hother q hqp]
        exact h.engine.others q hq hne

/-! ### The engine -/

/-- Neither operation of the engine touches a pin that the Emulator owns, so I1 stands (R172, R173). -/
theorem Inv.pins_updPin_engine (h : Inv s) {p : Nat} (hne : (s.pin p).owner ≠ .emulator) {owner : Owner}
    (howner : owner ≠ .emulator) (oe out : Bool) :
    ∀ q < s.cfg.nPads, TwoStatePin ((s.updPin p fun r => { r with owner := owner, oe := oe, out := out }).pin q) := by
  intro q hq
  by_cases hqp : q = p
  · subst hqp
    rw [s.pin_updPin_same _ (h.shape.pins ▸ hq)]
    exact (h.pins q hq).of_not_acquired ((h.pins q hq).od_eq_none_iff.2 hne) howner oe out
  · rw [s.pin_updPin_other _ hqp]
    exact h.pins q hq

theorem startEngine_inv (h : Inv s) (hb : s.drv.busy = false) (hc : s.eng.cfgd = true) (hr : s.eng.run = false)
    (hne : (s.pin s.eng.pin.toNat).owner ≠ .emulator) : Inv (startEngine s) := by
  obtain ⟨hlt, hhalf⟩ := h.engine.configured hc
  have hstopped : ∀ q, ¬ EnginePin s q := fun q he => by simp [he.1] at hr
  have hsame : (startEngine s).pin s.eng.pin.toNat =
      { s.pin s.eng.pin.toNat with owner := .engine, oe := true, out := true } :=
    s.pin_updPin_same _ (h.shape.pins ▸ hlt)
  have hother : ∀ q, q ≠ s.eng.pin.toNat → (startEngine s).pin q = s.pin q := fun q hq => s.pin_updPin_other _ hq
  refine h.of_idle hb rfl rfl (h.shape.of_eq rfl (List.length_modify ..) rfl rfl)
    (h.pins_updPin_engine hne (by decide) true true)
    ⟨fun q hq => ?_, h.engine.configured, fun _ => ?_, fun q hq hq' => ?_⟩
  · by_cases hqp : q = s.eng.pin.toNat
    · rw [hqp, hsame]
      exact ⟨fun _ => ⟨rfl, rfl⟩, fun _ => rfl⟩
    · rw [hother q hqp, h.engine.owned q hq]
      exact ⟨fun he => absurd he (hstopped q), fun he => absurd he.2.symm hqp⟩
  · have hpin : (startEngine s).pin (startEngine s).eng.pin.toNat = _ := hsame
    rw [hpin]
    exact ⟨hc, rfl, rfl, hhalf, le_rfl⟩
  · rw [hother q fun e => hq' ⟨rfl, e.symm⟩]
    exact h.engine.others q hq (hstopped q)

theorem stopEngine_inv (h : Inv s) (hb : s.drv.busy = false) (hr : s.eng.run = true) : Inv (stopEngine s) := by
  obtain ⟨hc, -⟩ := h.engine.running hr
  obtain ⟨hlt, -⟩ := h.engine.configured hc
  have howner := (h.engine.owned _ hlt).2 ⟨hr, rfl⟩
  have hsame : (stopEngine s).pin s.eng.pin.toNat =
      { s.pin s.eng.pin.toNat with owner := .nobody, oe := false, out := false } :=
    s.pin_updPin_same _ (h.shape.pins ▸ hlt)
  have hother : ∀ q, q ≠ s.eng.pin.toNat → (stopEngine s).pin q = s.pin q := fun q hq => s.pin_updPin_other _ hq
  have hstopped : ∀ q, ¬ EnginePin (stopEngine s) q := fun q he => nomatch he.1
  refine h.of_idle hb rfl rfl (h.shape.of_eq rfl (List.length_modify ..) rfl rfl)
    (h.pins_updPin_engine (by simp [howner]) (by decide) false false)
    ⟨fun q hq => ?_, h.engine.configured, nofun, fun q hq _ => ?_⟩
  · by_cases hqp : q = s.eng.pin.toNat
    · rw [hqp, hsame]
      exact ⟨nofun, fun he => absurd he (hstopped _)⟩
    · rw [hother q hqp, h.engine.owned q hq]
      exact ⟨fun he => absurd he.2.symm hqp, fun he => absurd he (hstopped q)⟩
  · by_cases hqp : q = s.eng.pin.toNat
    · rw [hqp, hsame]
      exact ⟨rfl, fun _ => rfl⟩
    · rw [hother q hqp]
      exact h.engine.others q hq fun he => hqp he.2.symm

/-- The operands of `configure` fit the engine's registers: at most 256 pads, a half-period of 16 bits (R29, R171). -/
theorem execConfigure_inv (h : Inv s) (hb : s.drv.busy = false) {p half : Nat} (hhalf : half < 65536)
    (ht : execConfigure p half s = .next t) : Inv t := by
  obtain ⟨-, rfl⟩ | ⟨hr, hp, hne, rfl⟩ := execConfigure_cases ht
  · exact h.respond _
  · obtain ⟨-, hpads, -⟩ := legal_pads h.shape.legal
    have hstopped : ∀ q, ¬ EnginePin s q := fun q he => by simp [he.1] at hr
    refine h.of_idle hb rfl rfl (h.shape.of_eq rfl rfl rfl rfl) h.pins
      ⟨fun q hq => ?_, fun _ => ?_, fun hrun => by simp [hr] at hrun, fun q hq _ => h.engine.others q hq (hstopped q)⟩
    · exact (h.engine.owned q hq).trans
        ⟨fun he => absurd he (hstopped q), fun he => absurd he.1 (by simp [hr])⟩
    · have hpin : (BitVec.ofNat 8 p).toNat = p := by
        rw [BitVec.toNat_ofNat]
        exact Nat.mod_eq_of_lt (hp.trans_le hpads)
      have hhalf' : (BitVec.ofNat 16 half).toNat = half := by
        rw [BitVec.toNat_ofNat]
        exact Nat.mod_eq_of_lt hhalf
      simp only [hpin, hhalf']
      exact ⟨hp, Nat.pos_of_ne_zero hne⟩

/-! ### The start of a transaction -/

theorem needsAcquire_false_iff :
    needsAcquire s = false ↔ supported s.cfg s.cfg.busGrp s.cfg.busPin = true ∧ (s.pin s.cfg.busPin).od ≠ none := by
  simp [needsAcquire, Option.isSome_iff_ne_none]

theorem supported_iff {c : Cfg} {g i : Nat} : supported c g i = true ↔ g = 0 ∧ i < c.nPads := by
  simp [supported]

/-- Stage 3 of `transact` on an acquired bus pin, with the data bytes that stage 1 has found written (R204). -/
theorem startTransaction_inv (h : Inv s) (hbus : (s.pin s.cfg.busPin).od ≠ none) (hgrp : s.cfg.busGrp = 0) {n : Nat}
    (hn : n ≤ s.cfg.maxData) (hw : ∀ k < n, (Memory.read s.txbuf k).isSome = true) (sel cmd : Byte) :
    Inv (startTransaction sel cmd n s) := by
  obtain ⟨-, -, hstart, -, -, -, -, -, hmax⟩ := legal_bus h.shape.legal
  have hn8 : (BitVec.ofNat 8 n).toNat = n := by
    rw [BitVec.toNat_ofNat]
    exact Nat.mod_eq_of_lt (by omega)
  have hline : Holds (startTransaction sel cmd n s) .drivenLow := holds_of_pins_eq_setOd s rfl hbus rfl
  obtain ⟨hpins, heng⟩ :=
    h.pins_engine_of_line (t := startTransaction sel cmd n s) hbus rfl rfl (.inr ⟨.drivenLow, rfl⟩)
  refine ⟨h.shape.of_eq rfl (List.length_modify ..) rfl rfl, hpins, heng,
    ⟨fun _ => ⟨hline.od_ne_none, hgrp⟩, rfl, nofun, fun _ => rfl⟩, fun _ => ?_⟩
  exact ⟨hn8.trans_le hn, fun k hk => hw k (hn8 ▸ hk), Nat.zero_le _, hstart, rfl,
    ⟨rfl, hline, rfl, rfl, BitVec.le_refl _⟩⟩

theorem execTransact_inv (h : Inv s) (hb : s.drv.busy = false) {sel cmd : Byte} {n : Nat}
    (ht : execTransact sel cmd n s = .next t) : Inv t := by
  obtain ⟨-, rfl⟩ | ⟨hreq, -, ⟨e, -, rfl⟩ | ⟨hfree, rfl⟩⟩ | ⟨hreq, hacq, rfl⟩ := execTransact_cases ht
  · exact h.respond _
  · exact h.respond _
  · obtain ⟨hn, hw⟩ := transactRefused_false_iff.1 hreq
    obtain ⟨hsup, howner⟩ := acquireError_none_iff.1 hfree
    obtain ⟨hgrp, hp⟩ := supported_iff.1 hsup
    refine startTransaction_inv (acquirePin_inv h hb hp howner) ?_ hgrp hn hw sel cmd
    have hpin : (acquirePin s s.cfg.busPin).pin s.cfg.busPin = _ := State.pin_updPin_same _ _ (h.shape.pins ▸ hp)
    rw [acquirePin_cfg, hpin]
    exact nofun
  · obtain ⟨hn, hw⟩ := transactRefused_false_iff.1 hreq
    obtain ⟨hsup, hbus⟩ := needsAcquire_false_iff.1 hacq
    exact startTransaction_inv h hbus (supported_iff.1 hsup).1 hn hw sel cmd

/-! ### Every operation -/

theorem exec_inv (h : Inv s) (hb : s.drv.busy = false) {i : Instr} (hi : WellFormed i) (ht : exec i s = .next t) :
    Inv t := by
  cases i with
  | getPullUp g i => obtain ⟨-, rfl⟩ | ⟨-, rfl⟩ := execGetPullUp_cases ht <;> exact h.respond _
  | setPullUp g i enabled =>
    obtain ⟨-, rfl⟩ | ⟨-, -, rfl⟩ | ⟨-, -, rfl⟩ := execSetPullUp_cases ht
    · exact h.respond _
    · exact (h.setBit _ _).respond _
    · exact (h.clrBit _ _).respond _
  | getPullDown g i => obtain ⟨-, rfl⟩ | ⟨-, rfl⟩ := execGetPullDown_cases ht <;> exact h.respond _
  | setPullDown g i enabled =>
    obtain ⟨-, rfl⟩ | ⟨-, -, rfl⟩ | ⟨-, -, rfl⟩ := execSetPullDown_cases ht
    · exact h.respond _
    · exact (h.setBit _ _).respond _
    · exact (h.clrBit _ _).respond _
  | acquire g p =>
    obtain ⟨e, -, rfl⟩ | ⟨hfree, rfl⟩ := execAcquire_cases ht
    · exact h.respond _
    · obtain ⟨hsup, howner⟩ := acquireError_none_iff.1 hfree
      exact (acquirePin_inv h hb (supported_iff.1 hsup).2 howner).respond _
  | release p =>
    obtain ⟨-, rfl⟩ | ⟨ha, rfl⟩ := execRelease_cases ht
    · exact h.respond _
    · exact (h.setOdAt hb (acquired_iff.1 ha).2 _).respond _
  | driveLow p =>
    obtain ⟨-, rfl⟩ | ⟨ha, rfl⟩ := execDriveLow_cases ht
    · exact h.respond _
    · exact (h.setOdAt hb (acquired_iff.1 ha).2 _).respond _
  | read p =>
    obtain ⟨-, rfl⟩ | ⟨-, -, rfl⟩ := execRead_cases ht
    · exact h.respond _
    · exact (h.afterSample p).respond _
  | configure p half =>
    obtain ⟨-, hhalf⟩ : IndexFits p ∧ ImmediateFits half := by simpa [WellFormed, Instr.wellFormed] using hi
    exact execConfigure_inv h hb hhalf ht
  | start k =>
    obtain ⟨-, rfl⟩ | ⟨-, hc, hr, ⟨-, rfl⟩ | ⟨hne, rfl⟩⟩ := execStart_cases ht
    · exact h.respond _
    · exact h.respond _
    · exact (startEngine_inv h hb hc hr hne).respond _
  | stop k =>
    obtain ⟨-, rfl⟩ | ⟨-, -, rfl⟩ | ⟨-, hr, rfl⟩ := execStop_cases ht
    · exact h.respond _
    · exact h.respond _
    · exact (stopEngine_inv h hb hr).respond _
  | transact sel cmd n => exact execTransact_inv h hb ht
  | wrbuf k byte => exact execWrbuf_inv h hb ht

end Sys2Proof.Machine
end

section
/-! SUPPORT. A decoded word is well formed (spec/30_encoding.md R91, R92). Every step keeps the invariant
(spec/10_state.md section 7): O53 and O52. -/

namespace Sys2Proof.Machine

variable {s t : State}

theorem rows_build_wellFormed {r : Row} (hr : r ∈ rows) (w : Word) : WellFormed (r.build w) := by
  have hgrp := (fieldGrp w).isLt
  have hidx := (fieldIdx w).isLt
  have himm := (fieldImm w).isLt
  simp only [rows, List.mem_cons, List.not_mem_nil, or_false] at hr
  rcases hr with rfl | rfl | rfl | rfl | rfl | rfl | rfl | rfl | rfl | rfl | rfl | rfl | rfl <;>
    simp [WellFormed, Instr.wellFormed, hgrp, hidx, himm]

theorem decode_wellFormed {w : Word} {i : Instr} (h : decode w = some i) : WellFormed i := by
  obtain ⟨r, hfind, rfl⟩ := Option.map_eq_some_iff.1 h
  exact rows_build_wellFormed (List.mem_of_find?_eq_some hfind) w

theorem step_inv (h : Inv s) (ht : step s = .next t) : Inv t := by
  obtain ⟨-, ⟨-, rfl⟩ | ⟨-, rfl⟩ | ⟨w, i, hmove, hi, hexec⟩ | ⟨w, -, -, rfl⟩⟩ := step_cases ht
  · exact resetTick_inv h
  · exact tick_inv h
  · obtain ⟨-, hb, -⟩ := State.move_accept_iff.1 hmove
    exact exec_inv h.taken hb (decode_wellFormed hi) hexec
  · exact h.taken.respond _

/-- Settles O53: a reset cycle leads to the launch values, the stages of a clock cycle keep the invariant one by one,
and so does each operation, which is accepted only while no transaction runs. -/
theorem invariantKeptByEveryStep : Obligations.InvariantKeptByEveryStep := fun _ _ => step_inv

/-- Settles O52: no pin is acquired or owned at launch, the engine is stopped and the driver idle. -/
theorem invariantHoldsAtLaunch : Obligations.InvariantHoldsAtLaunch := fun _ _ => launch_inv

end Sys2Proof.Machine
end

section
/-! SUPPORT. Which step is taken: an operation, a clock cycle or the fault (spec/10_state.md R41 to R43): O6, O7,
O9 and O59. -/

namespace Sys2Proof.Machine

variable {s : State}

/-! ### The step by the agent that moves -/

theorem step_of_accept (hl : Cfg.legal s.cfg = true) {w : Word} {i : Instr} (hm : s.move = .accept w)
    (hi : decode w = some i) : step s = exec i s.taken := by
  simp [step, hl, hm, hi]

theorem step_of_clockCycle (hl : Cfg.legal s.cfg = true) (hm : s.move = .clockCycle) : step s = .next (tick s) := by
  simp [step, hl, hm]

theorem step_of_resetCycle (hl : Cfg.legal s.cfg = true) (hm : s.move = .resetCycle) :
    step s = .next (resetTick s) := by
  simp [step, hl, hm]

theorem step_of_reserved (hl : Cfg.legal s.cfg = true) {w : Word} (hm : s.move = .accept w) (hn : decode w = none) :
    step s = .next (s.taken.respond (statusOnly .refused)) := by
  simp [step, hl, hm, hn, answerReserved]

/-- Settles O6: the request is accepted, and taking it leaves the rest of the host's schedule. -/
theorem stepRunsTheDecodedOperation : Obligations.StepRunsTheDecodedOperation := by
  intro s w i rest hl hrst hb hhost hi
  have htaken : s.taken = { s with host := rest } := by simp [State.taken, hhost]
  rw [← htaken]
  exact step_of_accept hl (State.move_accept_iff.2 ⟨hrst, hb, rest, hhost⟩) hi

/-! ### A word presented by the harness (log 13) -/

/-- A presented word is the one that is accepted next: `rst` is made low and the driver not busy. -/
theorem presenting_move (s : State) (w : Word) : (s.presenting w).move = .accept w := by
  refine State.move_accept_iff.2 ⟨?_, ?_, s.host, rfl⟩
  · simp only [State.presenting, State.rst]
    cases s.env <;> rfl
  · simp only [State.presenting]
    cases hb : s.drv.busy <;> simp [hb]

theorem presenting_env (s : State) (w : Word) :
    (∀ p, (s.presenting w).ext p = s.ext p) ∧ (s.presenting w).env.tail = s.env.tail ∧
    (s.rst = false → (s.presenting w).env = s.env) := by
  unfold State.ext State.rst State.presenting
  rcases s.env with _ | ⟨⟨low, rst⟩, env⟩
  · exact ⟨fun _ => rfl, rfl, fun _ => rfl⟩
  · exact ⟨fun _ => rfl, rfl, by rintro rfl; rfl⟩

theorem presenting_drv (s : State) (w : Word) :
    (s.presenting w).drv.busy = false ∧ (s.drv.busy = false → (s.presenting w).drv = s.drv) ∧
    (s.presenting w).drv = { s.drv with busy := (s.presenting w).drv.busy, state := (s.presenting w).drv.state } := by
  cases hb : s.drv.busy with
  | false =>
    have hdrv : (s.presenting w).drv = s.drv := by simp [State.presenting, hb]
    rw [hdrv]
    exact ⟨hb, fun _ => rfl, rfl⟩
  | true =>
    have hdrv : (s.presenting w).drv = { s.drv with busy := false, state := .idle } := by simp [State.presenting, hb]
    rw [hdrv]
    exact ⟨rfl, nofun, rfl⟩

/-- Settles O7: the operation runs at the presenting state, whose schedule is the given one again once the request is
taken. -/
theorem presentedWordRunsNext : Obligations.PresentedWordRunsNext := by
  intro s w i hl hw hi
  have hword : s.withFetchWord 32 w = s.presenting (BitVec.ofNat 32 w) := by
    rw [State.withFetchWord, Nat.mod_eq_of_lt hw]
  obtain ⟨hext, htail, henv⟩ := presenting_env s (BitVec.ofNat 32 w)
  obtain ⟨hbusy, hidle, hdrv⟩ := presenting_drv s (BitVec.ofNat 32 w)
  refine ⟨(s.presenting (BitVec.ofNat 32 w)).taken, ?_, hbusy, rfl, hext, htail, henv, hidle, hdrv⟩
  rw [hword]
  exact step_of_accept (s := s.presenting _) hl (presenting_move s _) hi

/-! ### No operation is stuck -/

theorem execTransact_answers (sel cmd : Byte) (n : Nat) (s : State) : ∃ t, execTransact sel cmd n s = .next t := by
  unfold execTransact
  split
  · exact ⟨_, rfl⟩
  · split
    · split <;> exact ⟨_, rfl⟩
    · exact ⟨_, rfl⟩

theorem exec_answers (i : Instr) (s : State) : ∃ t, exec i s = .next t := by
  cases i with
  | getPullUp g i => simp only [exec, execGetPullUp]; split_ifs <;> exact ⟨_, rfl⟩
  | setPullUp g i enabled => simp only [exec, execSetPullUp]; split_ifs <;> exact ⟨_, rfl⟩
  | getPullDown g i => simp only [exec, execGetPullDown]; split_ifs <;> exact ⟨_, rfl⟩
  | setPullDown g i enabled => simp only [exec, execSetPullDown]; split_ifs <;> exact ⟨_, rfl⟩
  | acquire g p => simp only [exec, execAcquire]; split <;> exact ⟨_, rfl⟩
  | release p => simp only [exec, execRelease]; split_ifs <;> exact ⟨_, rfl⟩
  | driveLow p => simp only [exec, execDriveLow]; split_ifs <;> exact ⟨_, rfl⟩
  | read p => simp only [exec, execRead]; split_ifs <;> exact ⟨_, rfl⟩
  | configure p half => simp only [exec, execConfigure]; split_ifs <;> exact ⟨_, rfl⟩
  | start k => simp only [exec, execStart]; split_ifs <;> exact ⟨_, rfl⟩
  | stop k => simp only [exec, execStop]; split_ifs <;> exact ⟨_, rfl⟩
  | transact sel cmd n => exact execTransact_answers sel cmd n s
  | wrbuf k byte => simp only [exec, execWrbuf]; split_ifs <;> exact ⟨_, rfl⟩

/-- A legal configuration has every move answered: the two kinds of clock edge by themselves, a request by its
operation or, where its word is reserved, by the refusal (R43, R94). -/
theorem step_answers (hl : Cfg.legal s.cfg = true) : ∃ t, step s = .next t := by
  cases hm : s.move with
  | resetCycle => exact ⟨_, step_of_resetCycle hl hm⟩
  | clockCycle => exact ⟨_, step_of_clockCycle hl hm⟩
  | accept w =>
    cases hi : decode w with
    | some i => exact step_of_accept hl hm hi ▸ exec_answers i s.taken
    | none => exact ⟨_, step_of_reserved hl hm hi⟩

/-- Settles O9: `step` looks at the configuration first, and with a legal one every move is answered. -/
theorem stepAnswersUnderALegalConfiguration : Obligations.StepAnswersUnderALegalConfiguration :=
  ⟨fun _ => step_answers, fun s hl => by simp [step, hl]⟩

/-! ### The clock -/

/-- Settles O59: with no request at the head of the schedule the clock moves, and the cycle passes. -/
theorem clockStepIsATick : Obligations.ClockStepIsATick := by
  intro s rest hl hrst hhost
  obtain ⟨hcyc, henv, hnext⟩ := tick_schedule s
  have hm : s.move = .clockCycle := by
    refine State.move_clock_iff.2 ⟨hrst, .inr fun w l => ?_⟩
    rcases hhost with hhost | hhost <;> simp [hhost]
  refine ⟨step_of_clockCycle hl hm, hcyc, henv, hnext.trans ?_⟩
  unfold State.hostAfterCycle
  rcases hhost with hhost | hhost <;> rw [hhost] <;> rfl

end Sys2Proof.Machine
end

section
/-! SUPPORT. The pad words under every step (spec/10_state.md R23): O54; the inversion contract (R39): O22; the
reset values (R45): O50. -/

namespace Sys2Proof.Machine

variable {s t : State}

/-! ### Enables and unrelated bits -/

theorem enableBit_pue {c : Cfg} {i : Nat} (h : i < c.nPads) : EnableBit c (padWordOf c i) (pueBitOf c i) :=
  List.mem_flatMap.2 ⟨padPos c i, padPos_mem h, by simp [padWordOf, pueBitOf]⟩

theorem enableBit_pde {c : Cfg} {i : Nat} (h : i < c.nPads) : EnableBit c (padWordOf c i) (pdeBitOf c i) :=
  List.mem_flatMap.2 ⟨padPos c i, padPos_mem h, by simp [padWordOf, pdeBitOf]⟩

/-- Every enable stands inside a word that exists (R5). -/
theorem EnableBit.bounds {c : Cfg} (hl : Cfg.legal c = true) {a b : Nat} (h : EnableBit c a b) :
    a < c.nWords ∧ b < c.padW := by
  obtain ⟨-, -, -, -, hpads, -⟩ := legal_pads hl
  obtain ⟨q, hq, hmem⟩ := List.mem_flatMap.1 h
  obtain ⟨hword, hpue, hpde⟩ := hpads q hq
  simp only [List.mem_cons, List.not_mem_nil, or_false, Prod.mk.injEq] at hmem
  rcases hmem with ⟨rfl, rfl⟩ | ⟨rfl, rfl⟩
  · exact ⟨hword, hpue⟩
  · exact ⟨hword, hpde⟩

/-- The pad words of `t` are those of `s`, or those of `s` with one enable set or cleared. -/
def OneEnableWritten (s t : State) : Prop :=
  t.padreg = s.padreg ∨
    ∃ a b, EnableBit s.cfg a b ∧ (t.padreg = (s.setBit a b).padreg ∨ t.padreg = (s.clrBit a b).padreg)

theorem padBit_of_padreg (h : t.padreg = s.padreg) (a b : Nat) : t.padBit a b = s.padBit a b := by
  simp only [State.padBit, State.memRead, h]

theorem OneEnableWritten.padBit_eq (h : OneEnableWritten s t) (hs : ShapeInv s) {a b : Nat}
    (hab : ¬ EnableBit s.cfg a b) : t.padBit a b = s.padBit a b := by
  rcases h with h | ⟨c, d, he, h⟩
  · exact padBit_of_padreg h a b
  · have hne : ¬ (a = c ∧ b = d) := by
      rintro ⟨rfl, rfl⟩
      exact hab he
    obtain ⟨hc, hd⟩ := he.bounds hs.legal
    rw [← hs.words] at hc
    rcases h with h | h
    · rw [padBit_of_padreg h, s.padBit_setBit hs.wordWidth hc hd, if_neg hne]
    · rw [padBit_of_padreg h, s.padBit_clrBit hs.wordWidth hc hd, if_neg hne]

theorem OneEnableWritten.of_setBit {a b : Nat} (he : EnableBit s.cfg a b) (h : t.padreg = (s.setBit a b).padreg) :
    OneEnableWritten s t := .inr ⟨a, b, he, .inl h⟩

theorem OneEnableWritten.of_clrBit {a b : Nat} (he : EnableBit s.cfg a b) (h : t.padreg = (s.clrBit a b).padreg) :
    OneEnableWritten s t := .inr ⟨a, b, he, .inr h⟩

/-- The operations that write the pad words are the two sets, `acquire`, and a `transact` that has to acquire. -/
theorem exec_oneEnableWritten {i : Instr} (h : exec i s = .next t) : OneEnableWritten s t := by
  cases i with
  | getPullUp g i => obtain ⟨-, rfl⟩ | ⟨-, rfl⟩ := execGetPullUp_cases h <;> exact .inl rfl
  | setPullUp g i enabled =>
    obtain ⟨-, rfl⟩ | ⟨hs, -, rfl⟩ | ⟨hs, -, rfl⟩ := execSetPullUp_cases h
    · exact .inl rfl
    · exact .of_setBit (enableBit_pue (supported_iff.1 hs).2) rfl
    · exact .of_clrBit (enableBit_pue (supported_iff.1 hs).2) rfl
  | getPullDown g i => obtain ⟨-, rfl⟩ | ⟨-, rfl⟩ := execGetPullDown_cases h <;> exact .inl rfl
  | setPullDown g i enabled =>
    obtain ⟨-, rfl⟩ | ⟨hs, -, rfl⟩ | ⟨hs, -, rfl⟩ := execSetPullDown_cases h
    · exact .inl rfl
    · exact .of_setBit (enableBit_pde (supported_iff.1 hs).2) rfl
    · exact .of_clrBit (enableBit_pde (supported_iff.1 hs).2) rfl
  | acquire g p =>
    obtain ⟨e, -, rfl⟩ | ⟨hfree, rfl⟩ := execAcquire_cases h
    · exact .inl rfl
    · exact .of_setBit (enableBit_pue (supported_iff.1 (acquireError_none_iff.1 hfree).1).2) rfl
  | release p => obtain ⟨-, rfl⟩ | ⟨-, rfl⟩ := execRelease_cases h <;> exact .inl rfl
  | driveLow p => obtain ⟨-, rfl⟩ | ⟨-, rfl⟩ := execDriveLow_cases h <;> exact .inl rfl
  | read p => obtain ⟨-, rfl⟩ | ⟨-, -, rfl⟩ := execRead_cases h <;> exact .inl (by simp)
  | configure p half => obtain ⟨-, rfl⟩ | ⟨-, -, -, rfl⟩ := execConfigure_cases h <;> exact .inl rfl
  | start k => obtain ⟨-, rfl⟩ | ⟨-, -, -, ⟨-, rfl⟩ | ⟨-, rfl⟩⟩ := execStart_cases h <;> exact .inl rfl
  | stop k => obtain ⟨-, rfl⟩ | ⟨-, -, rfl⟩ | ⟨-, -, rfl⟩ := execStop_cases h <;> exact .inl rfl
  | transact sel cmd n =>
    obtain ⟨-, rfl⟩ | ⟨-, -, ⟨e, -, rfl⟩ | ⟨hfree, rfl⟩⟩ | ⟨-, -, rfl⟩ := execTransact_cases h
    · exact .inl rfl
    · exact .inl rfl
    · exact .of_setBit (enableBit_pue (supported_iff.1 (acquireError_none_iff.1 hfree).1).2) rfl
    · exact .inl rfl
  | wrbuf k byte => obtain ⟨-, rfl⟩ | ⟨-, rfl⟩ := execWrbuf_cases h <;> exact .inl rfl

theorem step_oneEnableWritten (h : step s = .next t) : OneEnableWritten s t := by
  obtain ⟨-, ⟨-, rfl⟩ | ⟨-, rfl⟩ | ⟨w, i, -, -, hexec⟩ | ⟨w, -, -, rfl⟩⟩ := step_cases h
  · exact .inl rfl
  · exact .inl (tick_padreg s)
  · exact exec_oneEnableWritten (s := s.taken) hexec
  · exact .inl rfl

/-- Settles O54: a step writes at most one enable, and an unrelated bit is none. -/
theorem unrelatedBitsNeverChange : Obligations.UnrelatedBitsNeverChange := fun _ _ _ _ h ht hab =>
  (step_oneEnableWritten ht).padBit_eq h.shape hab

/-! ### The inversion contract -/

/-- Settles O22: by I1 the override is applied, and an enabled output under it sinks the line. -/
theorem enabledOutputOfAnAcquiredPinIsLow : Obligations.EnabledOutputOfAnAcquiredPinIsLow := by
  intro s p h hp hod hoe
  have hdrive : s.drive p = .low := Pin.drive_low_of_override hoe ((h.pins p hp).ovr_of_acquired hod)
  exact ⟨hdrive, by rw [State.line, hdrive, resolve_low]⟩

/-! ### The reset values -/

/-- Settles O50: the registers are written out in the launch state; the pins are equal ones, and past the last pin
the read gives the same. -/
theorem resetValues : Obligations.ResetValues := fun c words =>
  ⟨rfl, launch_pin c words, rfl, fun _ => rfl, rfl, rfl, rfl, rfl⟩

end Sys2Proof.Machine
end

section
/-! SUPPORT. The pad words and the line (spec/20_memory.md R64, R66, R67): O14, O23, O24 and O60. -/

namespace Sys2Proof.Machine

variable {s : State}

/-! ### `SetBit` and `ClrBit` (R64) -/

theorem withBitSet_withBitSet (W w b : Nat) : withBitSet W (withBitSet W w b) b = withBitSet W w b := by
  simp only [withBitSet, BitVec.ofNat_toNat, BitVec.setWidth_eq, BitVec.or_assoc, BitVec.or_self]

theorem withBitClear_withBitClear (W w b : Nat) :
    withBitClear W (withBitClear W w b) b = withBitClear W w b := by
  simp only [withBitClear, BitVec.ofNat_toNat, BitVec.setWidth_eq, BitVec.and_assoc, BitVec.and_self]

theorem State.memWrite_memWrite (s : State) (a v w : Nat) : (s.memWrite a v).memWrite a w = s.memWrite a w := by
  simp only [State.memWrite, List.set_set]

theorem State.setBit_setBit (s : State) {a : Nat} (ha : a < s.padreg.length) (b : Nat) :
    (s.setBit a b).setBit a b = s.setBit a b := by
  unfold State.setBit
  rw [s.memRead_memWrite_same _ ha, s.memWrite_memWrite, s.memWrite_cfg, withBitSet_withBitSet]

theorem State.clrBit_clrBit (s : State) {a : Nat} (ha : a < s.padreg.length) (b : Nat) :
    (s.clrBit a b).clrBit a b = s.clrBit a b := by
  unfold State.clrBit
  rw [s.memRead_memWrite_same _ ha, s.memWrite_memWrite, s.memWrite_cfg, withBitClear_withBitClear]

/-- Settles O14: the word and bit exist, so the bitwise laws of the updated word apply; a second update writes the
same word over the first. -/
theorem setAndClearBitLaws : Obligations.SetAndClearBitLaws := by
  intro s a b h ha hb
  rw [← h.words] at ha
  exact ⟨s.padBit_setBit h.wordWidth ha hb, s.padBit_clrBit h.wordWidth ha hb, s.setBit_setBit ha b,
    s.clrBit_clrBit ha b, rfl, rfl⟩

/-! ### What the engine's pin drives (R66) -/

/-- The registers of the pin the engine runs on: enabled, neither acquired nor overridden, and its `out` the engine's
level (R37, R38). -/
theorem Inv.enginePin_registers (h : Inv s) {p : Nat} (he : EnginePin s p) :
    (s.pin p).oe = true ∧ (s.pin p).od = none ∧ (s.pin p).ovr = false ∧ (s.pin p).out = s.eng.lvl := by
  obtain ⟨hrun, rfl⟩ := he
  obtain ⟨hc, hoe, hout, -⟩ := h.engine.running hrun
  obtain ⟨hlt, -⟩ := h.engine.configured hc
  have howner := (h.engine.owned _ hlt).2 ⟨hrun, rfl⟩
  have hod := (h.pins _ hlt).od_eq_none_iff.2 (by simp [howner])
  exact ⟨hoe, hod, (h.pins _ hlt).notAcquired.1 hod, hout⟩

/-- Settles O23: a pin driven high has `out` at 1, and by I2 that is so of the engine's pin alone. -/
theorem onlyTheEngineDrivesHigh : Obligations.OnlyTheEngineDrivesHigh := by
  intro s p h hp hdrive
  obtain ⟨-, -, hhigh⟩ := (Pin.drive_high_iff _).1 hdrive
  have he : EnginePin s p := by
    by_contra hne
    simp [(h.engine.others p hp hne).1] at hhigh
  obtain ⟨-, hod, -, hout⟩ := h.enginePin_registers he
  exact ⟨he, hod, hout ▸ hhigh⟩

theorem Inv.drive_of_enginePin (h : Inv s) {p : Nat} (he : EnginePin s p) :
    s.drive p = if (s.pin p).out then .high else .low := by
  obtain ⟨hoe, -, hovr, -⟩ := h.enginePin_registers he
  exact Pin.drive_of_out hoe hovr

/-- A pin that drives its `out` puts that level on the line, where no other participant pulls it low (R67). -/
theorem State.line_of_drive_out (s : State) {p : Nat} {out : Bool} (hd : s.drive p = if out then .high else .low)
    (hext : s.ext p = false) : s.line p = if out then .high else .low := by
  rw [State.line, hd, hext]
  cases out <;> rfl

/-- Settles O60: the four cases are the rows of R66; the engine's pin is enabled and not overridden. -/
theorem padDrivesAsListed : Obligations.PadDrivesAsListed := by
  refine ⟨fun s p => ⟨(Pin.drive_hiZ_iff _).2, fun ⟨hoe, hovr⟩ => Pin.drive_low_of_override hoe hovr, ?_, ?_⟩, ?_⟩
  · rintro ⟨hoe, hovr, hout⟩
    exact (Pin.drive_of_out hoe hovr).trans (by simp [hout])
  · exact (Pin.drive_high_iff _).2
  · intro s h hrun
    have hd := h.drive_of_enginePin ⟨hrun, rfl⟩
    exact ⟨hd, s.line_of_drive_out hd⟩

/-! ### The level of a line (R67) -/

/-- Another participant holds low every line that the pad does not drive high. -/
theorem resolve_pulledLow {d : Drive} (hd : d ≠ .high) (pue pde : Bool) : resolve d true pue pde = .low := by
  cases d with
  | hiZ => rfl
  | low => rfl
  | high => exact absurd rfl hd

@[simp] theorem resolve_hiZ_pulledDown : resolve .hiZ false false true = .low := rfl

/-- With no pull, or with both, nothing gives a line that nobody drives a level. -/
@[simp] theorem resolve_hiZ_floating (pull : Bool) : resolve .hiZ false pull pull = .unspecified := by
  cases pull <;> rfl

/-- Settles O24: the level is `resolve` of its four causes, whose values the lemmas on `resolve` list. -/
theorem lineResolvesAsListed : Obligations.LineResolvesAsListed := by
  intro s p
  unfold State.line
  refine ⟨?contention, ?low, ?high, ?pulledUp, ?pulledDown, ?floating⟩
  case contention => rintro ⟨hd, he⟩; rw [hd, he, resolve_contention]
  case low =>
    rintro (hd | ⟨he, hd⟩)
    · rw [hd, resolve_low]
    · rw [he, resolve_pulledLow hd]
  case high => rintro ⟨hd, he⟩; rw [hd, he, resolve_high_alone]
  case pulledUp => rintro ⟨hd, he, hu, hdn⟩; rw [hd, he, hu, hdn, resolve_hiZ_pulledUp]
  case pulledDown => rintro ⟨hd, he, hu, hdn⟩; rw [hd, he, hu, hdn, resolve_hiZ_pulledDown]
  case floating => rintro ⟨hd, he, hpulls⟩; rw [hd, he, hpulls, resolve_hiZ_floating]

end Sys2Proof.Machine
end

section
/-! SUPPORT. The request word read by its fields (spec/30_encoding.md R91 to R95): which row a word selects, and that
decoding and encoding undo each other: O1, O2, O3 and O4. -/

namespace Sys2Proof

variable {v w : Word} {r : Row} {i : Instr}

/-! ### A word is its fields (R91) -/

@[simp] theorem fieldOpc_wordOf (o : BitVec 4) (g : BitVec 2) (x : BitVec 8) (m : Half) :
    fieldOpc (wordOf o g x m) = o := (Laws.fields_wordOf o g x m).1

@[simp] theorem fieldGrp_wordOf (o : BitVec 4) (g : BitVec 2) (x : BitVec 8) (m : Half) :
    fieldGrp (wordOf o g x m) = g := (Laws.fields_wordOf o g x m).2.1

@[simp] theorem fieldRsv_wordOf (o : BitVec 4) (g : BitVec 2) (x : BitVec 8) (m : Half) :
    fieldRsv (wordOf o g x m) = 0#2 := (Laws.fields_wordOf o g x m).2.2.1

@[simp] theorem fieldIdx_wordOf (o : BitVec 4) (g : BitVec 2) (x : BitVec 8) (m : Half) :
    fieldIdx (wordOf o g x m) = x := (Laws.fields_wordOf o g x m).2.2.2.1

@[simp] theorem fieldImm_wordOf (o : BitVec 4) (g : BitVec 2) (x : BitVec 8) (m : Half) :
    fieldImm (wordOf o g x m) = m := (Laws.fields_wordOf o g x m).2.2.2.2

theorem append_fields (w : Word) : fieldOpc w ++ fieldGrp w ++ fieldRsv w ++ fieldIdx w ++ fieldImm w = w := by
  unfold fieldOpc fieldGrp fieldRsv fieldIdx fieldImm
  rw [BitVec.extractLsb'_append_extractLsb'_eq_extractLsb' (by rfl),
    BitVec.extractLsb'_append_extractLsb'_eq_extractLsb' (by rfl),
    BitVec.extractLsb'_append_extractLsb'_eq_extractLsb' (by rfl),
    BitVec.extractLsb'_append_extractLsb'_eq_extractLsb' (by rfl)]
  exact BitVec.extractLsb'_eq_self

theorem word_ext_iff : v = w ↔ fieldOpc v = fieldOpc w ∧ fieldGrp v = fieldGrp w ∧ fieldRsv v = fieldRsv w ∧
    fieldIdx v = fieldIdx w ∧ fieldImm v = fieldImm w := by
  refine ⟨by rintro rfl; simp, fun ⟨hopc, hgrp, hrsv, hidx, himm⟩ => ?_⟩
  rw [← append_fields v, ← append_fields w, hopc, hgrp, hrsv, hidx, himm]

/-! ### The operands inside `IMM` (R92) -/

theorem fieldSel_eq (w : Word) : fieldSel w = (fieldImm w).extractLsb' 8 8 :=
  (BitVec.extractLsb'_extractLsb'_of_le (by decide)).symm

theorem fieldLow_eq (w : Word) : fieldLow w = (fieldImm w).extractLsb' 0 8 :=
  (BitVec.extractLsb'_extractLsb'_of_le (by decide)).symm

theorem ofBool_fieldEnabled (w : Word) : BitVec.ofBool (fieldEnabled w) = (fieldImm w).extractLsb' 0 1 := by
  ext k hk
  obtain rfl : k = 0 := by omega
  simp [fieldEnabled, fieldImm]

@[simp] theorem fieldSel_wordOf (o : BitVec 4) (g : BitVec 2) (x : BitVec 8) (sel cmd : Byte) :
    fieldSel (wordOf o g x (sel ++ cmd)) = sel := by
  rw [fieldSel_eq, fieldImm_wordOf, BitVec.extractLsb'_append_eq_left]

@[simp] theorem fieldLow_wordOf (o : BitVec 4) (g : BitVec 2) (x : BitVec 8) (high low : Byte) :
    fieldLow (wordOf o g x (high ++ low)) = low := by
  rw [fieldLow_eq, fieldImm_wordOf, BitVec.extractLsb'_append_eq_right]

@[simp] theorem fieldEnabled_wordOf (o : BitVec 4) (g : BitVec 2) (x : BitVec 8) (enabled : Bool) :
    fieldEnabled (wordOf o g x (immOfEnabled enabled)) = enabled := by
  apply BitVec.ofBool_eq_iff_eq.1
  rw [ofBool_fieldEnabled, fieldImm_wordOf, immOfEnabled, BitVec.extractLsb'_append_eq_right]

/-! ### What a mask leaves of an operand field (R92) -/

/-- A mask of the `h` high bits finds zeros exactly in the words that are their own `l` low bits. -/
theorem and_highMask_eq_zero_iff {h l : Nat} (m : BitVec (h + l)) :
    m &&& (BitVec.allOnes h ++ 0#l) = 0#(h + l) ↔ 0#h ++ m.extractLsb' 0 l = m := by
  generalize hlo : m.extractLsb' 0 l = lo
  rw [← BitVec.extractLsb'_append_extractLsb' (x := m), hlo, BitVec.and_append, BitVec.and_allOnes, BitVec.and_zero,
    ← BitVec.zero_append_zero, BitVec.append_left_inj, BitVec.append_left_inj, eq_comm]

theorem fieldGrp_unmasked_iff : fieldGrp w &&& 0#2 = 0#2 ↔ BitVec.ofNat 2 (fieldGrp w).toNat = fieldGrp w := by simp

theorem fieldGrp_masked_iff : fieldGrp w &&& BitVec.allOnes 2 = 0#2 ↔ 0#2 = fieldGrp w := by
  rw [BitVec.and_allOnes, eq_comm]

theorem fieldImm_masked_iff : fieldImm w &&& BitVec.allOnes 16 = 0#16 ↔ 0#16 = fieldImm w := by
  rw [BitVec.and_allOnes, eq_comm]

theorem fieldImm_half_iff : fieldImm w &&& 0#16 = 0#16 ↔ BitVec.ofNat 16 (fieldImm w).toNat = fieldImm w := by simp

theorem fieldImm_bytes_iff : fieldImm w &&& 0#16 = 0#16 ↔ fieldSel w ++ fieldLow w = fieldImm w := by
  rw [fieldSel_eq, fieldLow_eq]
  exact iff_of_true BitVec.and_zero (BitVec.extractLsb'_append_extractLsb' (w := 8) (len := 8))

theorem fieldImm_enabled_iff : fieldImm w &&& 0xFFFE#16 = 0#16 ↔ immOfEnabled (fieldEnabled w) = fieldImm w := by
  rw [immOfEnabled, ofBool_fieldEnabled]
  exact and_highMask_eq_zero_iff (h := 15) (l := 1) (fieldImm w)

theorem fieldImm_low_iff : fieldImm w &&& 0xFF00#16 = 0#16 ↔ 0#8 ++ fieldLow w = fieldImm w := by
  rw [fieldLow_eq]
  exact and_highMask_eq_zero_iff (h := 8) (l := 8) (fieldImm w)

/-! ### The row a word selects (R92, R93) -/

/-- Every row fixes all of `OPC` and `RSV` and nothing of `IDX`, and asks for zeros beside `OPC`. -/
theorem rows_masks : ∀ r ∈ rows,
    fieldOpc r.mask = BitVec.allOnes 4 ∧ fieldRsv r.mask = BitVec.allOnes 2 ∧ fieldIdx r.mask = 0#8 ∧
    fieldGrp r.pat = 0#2 ∧ fieldRsv r.pat = 0#2 ∧ fieldIdx r.pat = 0#8 ∧ fieldImm r.pat = 0#16 := by decide

theorem selects_iff (hr : r ∈ rows) : w &&& r.mask = r.pat ↔ fieldOpc w = fieldOpc r.pat ∧
    fieldGrp w &&& fieldGrp r.mask = 0#2 ∧ fieldRsv w = 0#2 ∧ fieldImm w &&& fieldImm r.mask = 0#16 := by
  obtain ⟨hopc, hrsv, hidx, pgrp, prsv, pidx, pimm⟩ := rows_masks r hr
  have hand : w &&& r.mask = r.pat ↔ fieldOpc w &&& fieldOpc r.mask = fieldOpc r.pat ∧
      fieldGrp w &&& fieldGrp r.mask = fieldGrp r.pat ∧ fieldRsv w &&& fieldRsv r.mask = fieldRsv r.pat ∧
      fieldIdx w &&& fieldIdx r.mask = fieldIdx r.pat ∧ fieldImm w &&& fieldImm r.mask = fieldImm r.pat := by
    simp only [word_ext_iff, fieldOpc, fieldGrp, fieldRsv, fieldIdx, fieldImm, BitVec.extractLsb'_and]
  simp only [hand, hopc, hrsv, hidx, pgrp, prsv, pidx, pimm, BitVec.and_allOnes, BitVec.and_zero, true_and]

theorem rows_opc_nodup : (rows.map fun r => fieldOpc r.pat).Nodup := by decide

theorem row_index_unique {m n : Nat} {q : Row} (hm : rows[m]? = some r) (hn : rows[n]? = some q)
    (hr : w &&& r.mask = r.pat) (hq : w &&& q.mask = q.pat) : m = n := by
  have hopc : fieldOpc r.pat = fieldOpc q.pat :=
    ((selects_iff (List.mem_of_getElem? hm)).1 hr).1.symm.trans ((selects_iff (List.mem_of_getElem? hn)).1 hq).1
  have hlt : m < (rows.map fun r => fieldOpc r.pat).length := by
    simpa using (List.getElem?_eq_some_iff.1 hm).1
  exact (List.getElem?_inj hlt rows_opc_nodup).1 (by simp [hm, hn, hopc])

theorem Row.selectedBy_iff : r.selectedBy w = true ↔ w &&& r.mask = r.pat := beq_iff_eq

theorem find_row_iff : (rows.find? fun r => r.selectedBy w) = some r ↔ r ∈ rows ∧ w &&& r.mask = r.pat := by
  have hfound : ∀ {q : Row}, rows.find? (fun r => r.selectedBy w) = some q → q ∈ rows ∧ w &&& q.mask = q.pat :=
    fun h => ⟨List.mem_of_find?_eq_some h,
      Row.selectedBy_iff.1 (List.find?_some (p := fun r : Row => r.selectedBy w) h)⟩
  refine ⟨hfound, fun ⟨hr, h⟩ => ?_⟩
  have hsome : (rows.find? fun r => r.selectedBy w).isSome := List.find?_isSome.2 ⟨r, hr, Row.selectedBy_iff.2 h⟩
  obtain ⟨q, hfind⟩ := Option.isSome_iff_exists.1 hsome
  obtain ⟨hq, hqsel⟩ := hfound hfind
  obtain ⟨m, hm⟩ := List.mem_iff_getElem?.1 hr
  obtain ⟨n, hn⟩ := List.mem_iff_getElem?.1 hq
  obtain rfl := row_index_unique hm hn h hqsel
  rw [hfind, ← hn, hm]

theorem decode_eq_some_iff : decode w = some i ↔ ∃ r ∈ rows, w &&& r.mask = r.pat ∧ r.build w = i := by
  simp only [decode, Option.map_eq_some_iff, find_row_iff, and_assoc]

theorem decode_eq_none_iff : decode w = none ↔ ∀ r ∈ rows, w &&& r.mask ≠ r.pat := by
  simp [decode, Row.selectedBy]

/-- Settles O3: each row has an `OPC` of its own, so the first row that matches is the only one. -/
theorem decodeSelectsTheRow : Obligations.DecodeSelectsTheRow :=
  ⟨fun _ _ _ _ _ => row_index_unique, fun _ _ hr h => decode_eq_some_iff.2 ⟨_, hr, h, rfl⟩,
    fun _ => decode_eq_none_iff.2⟩

/-- Settles O4: closed words, decoded by running the decoder. -/
theorem requestWordsDecodeAsWritten : Obligations.RequestWordsDecodeAsWritten := by
  unfold Obligations.RequestWordsDecodeAsWritten
  decide

/-! ### Encoding what a row reads (R95) -/

/-- A word selects a row when its fields are those of the row's encoding: `OPC` the row's code, `IDX` the operand
read there, `GRP` and `IMM` what the row's mask admits. -/
theorem selects_iff_wordOf (hr : r ∈ rows) {o : BitVec 4} {g : BitVec 2} {m : Half} (hopc : fieldOpc r.pat = o)
    (hgrp : fieldGrp w &&& fieldGrp r.mask = 0#2 ↔ g = fieldGrp w)
    (himm : fieldImm w &&& fieldImm r.mask = 0#16 ↔ m = fieldImm w) :
    w &&& r.mask = r.pat ↔ wordOf o g (BitVec.ofNat 8 (fieldIdx w).toNat) m = w := by
  rw [selects_iff hr, hgrp, himm, hopc, word_ext_iff]
  simp [eq_comm]

/-- The bits that a row's mask fixes are those that encoding its operation writes without an operand. -/
theorem selects_iff_encode_build (hr : r ∈ rows) : w &&& r.mask = r.pat ↔ encode (r.build w) = w := by
  have hmem := hr
  simp only [rows, List.mem_cons, List.not_mem_nil, or_false] at hr
  rcases hr with rfl | rfl | rfl | rfl | rfl | rfl | rfl | rfl | rfl | rfl | rfl | rfl | rfl <;>
    refine selects_iff_wordOf hmem rfl ?_ ?_
  exacts [
    fieldGrp_unmasked_iff, fieldImm_masked_iff, -- `get_pull_up`
    fieldGrp_unmasked_iff, fieldImm_enabled_iff, -- `set_pull_up`
    fieldGrp_unmasked_iff, fieldImm_masked_iff, -- `get_pull_down`
    fieldGrp_unmasked_iff, fieldImm_enabled_iff, -- `set_pull_down`
    fieldGrp_unmasked_iff, fieldImm_masked_iff, -- `acquire`
    fieldGrp_masked_iff, fieldImm_masked_iff, -- `release`
    fieldGrp_masked_iff, fieldImm_masked_iff, -- `drive_low`
    fieldGrp_masked_iff, fieldImm_masked_iff, -- `read`
    fieldGrp_masked_iff, fieldImm_half_iff, -- `configure`
    fieldGrp_masked_iff, fieldImm_masked_iff, -- `start`
    fieldGrp_masked_iff, fieldImm_masked_iff, -- `stop`
    fieldGrp_masked_iff, fieldImm_bytes_iff, -- `transact`
    fieldGrp_masked_iff, fieldImm_low_iff -- `wrbuf`
  ]

/-- The row of R92 that stands for the operation: the one at its code. -/
def rowOf (i : Instr) : Row := rows[(opcOf i).toNat]'(by cases i <;> simp [opcOf, rows])

theorem rowOf_mem (i : Instr) : rowOf i ∈ rows := List.getElem_mem _

/-- Each operand that fits its field is read back from the field it was written to. -/
theorem rowOf_build_encode (h : WellFormed i) : (rowOf i).build (encode i) = i := by
  cases i <;> simp only [WellFormed, Instr.wellFormed, Bool.and_eq_true, decide_eq_true_eq] at h <;>
    simp [encode, rowOf, opcOf, rows, h]

/-- Settles O1: the operation's own row reads the operands back, so its word selects that row. -/
theorem decodeOfEncode : Obligations.DecodeOfEncode := fun i h =>
  have hread := rowOf_build_encode h
  decode_eq_some_iff.2
    ⟨rowOf i, rowOf_mem i, (selects_iff_encode_build (rowOf_mem i)).2 (congrArg encode hread), hread⟩

/-- Settles O2: the operands come from the row the word selects, and that row's encoding is the word. -/
theorem encodeOfDecode : Obligations.EncodeOfDecode := by
  intro w i h
  obtain ⟨r, hr, hsel, rfl⟩ := decode_eq_some_iff.1 h
  exact ⟨Machine.decode_wellFormed h, (selects_iff_encode_build hr).1 hsel⟩

end Sys2Proof
end

section
/-! SUPPORT. The answer to a reserved word (spec/30_encoding.md R94): O5; the CRC byte of a frame
(spec/30_encoding.md R105; spec/43_bus_driver.md R216): O39. -/

namespace Sys2Proof.Machine

variable {s : State}

/-- Settles O5: the request is accepted, no row matches its word, and the refusal writes the response alone. -/
theorem reservedWordIsRefused : Obligations.ReservedWordIsRefused := by
  intro s w rest hl hrst hb hhost hnone
  have htaken : s.taken = { s with host := rest } := by simp [State.taken, hhost]
  rw [step_of_reserved hl (State.move_accept_iff.2 ⟨hrst, hb, rest, hhost⟩) (decode_eq_none_iff.2 hnone), htaken]
  rfl

theorem frameByte_crcByte {k : Nat} (h : s.drv.n.toNat + 1 < k) :
    frameByte s k = s.drv.crc ^^^ s.cfg.crcXorout := by
  simp [frameByte, show k ≠ 0 by omega, show k ≠ 1 by omega, show ¬ k ≤ s.drv.n.toNat + 1 by omega]

/-- With the CRC byte in hand all the bytes it covers are out, and `drv.crc` holds exactly those. -/
theorem PositionInv.crc_of_crcByte (h : PositionInv s) (hk : s.drv.byte.toNat = s.drv.n.toNat + 2) :
    s.drv.crc = crcRun s.cfg (crcBytes s) := by
  have hall : (crcBytes s).length ≤ bytesOut s := by
    rw [crcBytes_length, bytesOut, hk]
    exact Nat.le_add_right ..
  rw [h.crc, List.take_of_length_le hall]

/-- Settles O39: the byte sent is the accumulator over the whole frame, with the final XOR. -/
theorem crcByteCoversTheFrame : Obligations.CrcByteCoversTheFrame := by
  intro s h hb hk
  have hcrc := (h.position hb).crc_of_crcByte hk
  exact ⟨by rw [frameByte_crcByte (by omega), hcrc, crcOf], hcrc⟩

end Sys2Proof.Machine
end

section
/-! SUPPORT. The Pad Pull Controller's four operations (spec/40_pad_pull.md R131 to R136): O10 to O13, O15 and O16. -/

namespace Sys2Proof.Machine

variable {s t : State} {g i a b : Nat}

/-! ### The shape the four operations share -/

/-- A pad operation: `UnsupportedPad` with nothing written, or the answer `t` where pad `(g, i)` is supported (R61). -/
def onPad (g i : Nat) (s t : State) : Host.Outcome State Fault Refusal :=
  if supported s.cfg g i then .next t else raise .unsupportedPad s

theorem onPad_supported (h : g = 0 ∧ i < s.cfg.nPads) : onPad g i s t = .next t :=
  if_pos (supported_iff.2 h)

theorem onPad_unsupported (h : ¬ (g = 0 ∧ i < s.cfg.nPads)) :
    onPad g i s t = .next { s with rsp := some 0x10000000#32 } :=
  if_neg (mt supported_iff.1 h)

/-- `SetBit(a, b)` or `ClrBit(a, b)`, as `v` says, answered `Ok` (R64, R132, R134). -/
def State.bitAnswered (s : State) (a b : Nat) (v : Bool) : State :=
  (if v then s.setBit a b else s.clrBit a b).respond (statusOnly .ok)

theorem exec_getPullUp (g i : Nat) (s : State) :
    exec (.getPullUp g i) s = onPad g i s (s.respond (okValue (s.pue i))) := by
  cases h : supported s.cfg g i <;> simp [exec, execGetPullUp, onPad, h, State.pue, State.padBit]

theorem exec_getPullDown (g i : Nat) (s : State) :
    exec (.getPullDown g i) s = onPad g i s (s.respond (okValue (s.pde i))) := by
  cases h : supported s.cfg g i <;> simp [exec, execGetPullDown, onPad, h, State.pde, State.padBit]

theorem exec_setPullUp (g i : Nat) (v : Bool) (s : State) :
    exec (.setPullUp g i v) s = onPad g i s (s.bitAnswered (padWordOf s.cfg i) (pueBitOf s.cfg i) v) := by
  cases h : supported s.cfg g i <;> cases v <;> simp [exec, execSetPullUp, onPad, h, State.bitAnswered, returnOk]

theorem exec_setPullDown (g i : Nat) (v : Bool) (s : State) :
    exec (.setPullDown g i v) s = onPad g i s (s.bitAnswered (padWordOf s.cfg i) (pdeBitOf s.cfg i) v) := by
  cases h : supported s.cfg g i <;> cases v <;> simp [exec, execSetPullDown, onPad, h, State.bitAnswered, returnOk]

/-! ### Reading a pull (R131, R133) -/

theorem okValue_eq (v : Bool) : okValue v = if v then 0x00000001#32 else 0x00000000#32 := by
  cases v <;> rfl

/-- Settles O10: the answer's `VAL` is the pull-up bit. -/
theorem getPullUpAnswersTheBit : Obligations.GetPullUpAnswersTheBit := by
  intro g i s
  rw [exec_getPullUp, okValue_eq]
  exact ⟨onPad_unsupported, onPad_supported⟩

/-- Settles O11: the answer's `VAL` is the pull-down bit. -/
theorem getPullDownAnswersTheBit : Obligations.GetPullDownAnswersTheBit := by
  intro g i s
  rw [exec_getPullDown, okValue_eq]
  exact ⟨onPad_unsupported, onPad_supported⟩

/-! ### Setting a pull (R132, R134) -/

theorem State.bitAnswered_eq (s : State) (a b : Nat) (v : Bool) : s.bitAnswered a b v =
    { s with padreg := (s.bitAnswered a b v).padreg, rsp := some 0x00000000#32 } := by
  cases v <;> rfl

@[simp] theorem State.bitAnswered_cfg (s : State) (a b : Nat) (v : Bool) : (s.bitAnswered a b v).cfg = s.cfg := by
  rw [s.bitAnswered_eq]

@[simp] theorem State.bitAnswered_pins (s : State) (a b : Nat) (v : Bool) : (s.bitAnswered a b v).pins = s.pins := by
  rw [s.bitAnswered_eq]

@[simp] theorem State.bitAnswered_eng (s : State) (a b : Nat) (v : Bool) : (s.bitAnswered a b v).eng = s.eng := by
  rw [s.bitAnswered_eq]

/-- The enable written holds `v`, and every other bit of every word is as before. -/
theorem ShapeInv.padBit_bitAnswered (h : ShapeInv s) (he : EnableBit s.cfg a b) (v : Bool) (c j : Nat) :
    (s.bitAnswered a b v).padBit c j = if c = a ∧ j = b then v else s.padBit c j := by
  obtain ⟨ha, hb⟩ := he.bounds h.legal
  rw [← h.words] at ha
  cases v
  · exact s.padBit_clrBit h.wordWidth ha hb c j
  · exact s.padBit_setBit h.wordWidth ha hb c j

/-- Settles O12: the pull-up enable of a supported pad stands inside a word that exists, so the bitwise law holds. -/
theorem setPullUpWritesOneBit : Obligations.SetPullUpWritesOneBit := by
  intro g i v s h
  rw [exec_setPullUp]
  refine ⟨onPad_unsupported, fun hs => ⟨_, onPad_supported hs, s.bitAnswered_eq .., ?_⟩⟩
  exact h.padBit_bitAnswered (enableBit_pue hs.2) v

/-- Settles O13: the pull-down enable stands inside a word that exists, as in O12. -/
theorem setPullDownWritesOneBit : Obligations.SetPullDownWritesOneBit := by
  intro g i v s h
  rw [exec_setPullDown]
  refine ⟨onPad_unsupported, fun hs => ⟨_, onPad_supported hs, s.bitAnswered_eq .., ?_⟩⟩
  exact h.padBit_bitAnswered (enableBit_pde hs.2) v

/-! ### Independence of the pulls (R135) -/

theorem ShapeInv.padBit_bitAnswered_same (h : ShapeInv s) (he : EnableBit s.cfg a b) (v : Bool) :
    (s.bitAnswered a b v).padBit a b = v := by
  rw [h.padBit_bitAnswered he, if_pos ⟨rfl, rfl⟩]

theorem ShapeInv.padBit_bitAnswered_other (h : ShapeInv s) (he : EnableBit s.cfg a b) (v : Bool) {c j : Nat}
    (hne : (c, j) ≠ (a, b)) : (s.bitAnswered a b v).padBit c j = s.padBit c j := by
  rw [h.padBit_bitAnswered he, if_neg fun hcj => hne (Prod.ext hcj.1 hcj.2)]

theorem State.pue_bitAnswered (s : State) (a b : Nat) (v : Bool) (j : Nat) :
    (s.bitAnswered a b v).pue j = (s.bitAnswered a b v).padBit (padWordOf s.cfg j) (pueBitOf s.cfg j) := by
  rw [State.pue, s.bitAnswered_cfg]

theorem State.pde_bitAnswered (s : State) (a b : Nat) (v : Bool) (j : Nat) :
    (s.bitAnswered a b v).pde j = (s.bitAnswered a b v).padBit (padWordOf s.cfg j) (pdeBitOf s.cfg j) := by
  rw [State.pde, s.bitAnswered_cfg]

/-- A pull-up at another position than the enable written is as before. -/
theorem ShapeInv.pue_bitAnswered_other (h : ShapeInv s) (he : EnableBit s.cfg a b) (v : Bool) {j : Nat}
    (hne : (padWordOf s.cfg j, pueBitOf s.cfg j) ≠ (a, b)) : (s.bitAnswered a b v).pue j = s.pue j :=
  (s.pue_bitAnswered a b v j).trans (h.padBit_bitAnswered_other he v hne)

theorem ShapeInv.pde_bitAnswered_other (h : ShapeInv s) (he : EnableBit s.cfg a b) (v : Bool) {j : Nat}
    (hne : (padWordOf s.cfg j, pdeBitOf s.cfg j) ≠ (a, b)) : (s.bitAnswered a b v).pde j = s.pde j :=
  (s.pde_bitAnswered a b v j).trans (h.padBit_bitAnswered_other he v hne)

/-- Settles O15: the bit read back is the one written, and by R5 no other pull stands at its position. -/
theorem pullBitsAreIndependent : Obligations.PullBitsAreIndependent := by
  intro i v s h hi
  have hup := enableBit_pue hi
  have hdown := enableBit_pde hi
  have hpad : 0 = 0 ∧ i < s.cfg.nPads := ⟨rfl, hi⟩
  simp only [exec_setPullUp, exec_setPullDown, exec_getPullUp, exec_getPullDown, ← okValue_eq]
  refine ⟨⟨_, onPad_supported hpad, ?readUp, fun j hj => ?othersUp⟩,
    ⟨_, onPad_supported hpad, ?readDown, fun j hj => ?othersDown⟩⟩
  case readUp =>
    rw [s.pue_bitAnswered, h.padBit_bitAnswered_same hup, onPad_supported (by simpa using hi)]
    rfl
  case readDown =>
    rw [s.pde_bitAnswered, h.padBit_bitAnswered_same hdown, onPad_supported (by simpa using hi)]
    rfl
  case othersUp =>
    obtain ⟨hne, -, -⟩ := positions_distinct h.legal hj hi
    obtain ⟨-, -, hcross⟩ := positions_distinct h.legal hi hj
    exact ⟨h.pde_bitAnswered_other hup v hcross.symm, fun hji => h.pue_bitAnswered_other hup v (hne hji)⟩
  case othersDown =>
    obtain ⟨-, hne, hcross⟩ := positions_distinct h.legal hj hi
    exact ⟨h.pue_bitAnswered_other hdown v hcross, fun hji => h.pde_bitAnswered_other hdown v (hne hji)⟩

/-! ### Ownership (R136) -/

/-- A pad operation whose answer leaves the pin and engine registers alone does the same whatever they hold. -/
theorem onPad_ignoresOwnership {u : State} (h : onPad g i s u = .next t) (hpins : u.pins = s.pins)
    (heng : u.eng = s.eng) (pins : List Pin) (eng : Engine) :
    onPad g i { s with pins := pins, eng := eng } { u with pins := pins, eng := eng } =
      .next { t with pins := pins, eng := eng } ∧ t.pins = s.pins ∧ t.eng = s.eng := by
  by_cases hs : g = 0 ∧ i < s.cfg.nPads
  · obtain rfl : u = t := by simpa [onPad_supported hs] using h
    exact ⟨onPad_supported hs, hpins, heng⟩
  · obtain rfl : { s with rsp := some 0x10000000#32 } = t := by simpa [onPad_unsupported hs] using h
    exact ⟨onPad_unsupported hs, rfl, rfl⟩

/-- The write of an enable is the same whatever the pin and engine registers hold. -/
theorem State.bitAnswered_ownership (s : State) (a b : Nat) (v : Bool) (pins : List Pin) (eng : Engine) :
    { s with pins := pins, eng := eng }.bitAnswered a b v =
      { s.bitAnswered a b v with pins := pins, eng := eng } := by
  cases v <;> rfl

/-- Settles O16: each of the four answers is made from the pad words alone, and writes no pin and no engine
register. -/
theorem padOperationsIgnoreOwnership : Obligations.PadOperationsIgnoreOwnership := by
  rintro _ s t pins eng ⟨g, k, rfl | rfl | ⟨v, rfl | rfl⟩⟩ h
  · rw [exec_getPullUp] at h ⊢
    exact onPad_ignoresOwnership h rfl rfl pins eng
  · rw [exec_getPullDown] at h ⊢
    exact onPad_ignoresOwnership h rfl rfl pins eng
  · rw [exec_setPullUp] at h ⊢
    rw [State.bitAnswered_ownership]
    exact onPad_ignoresOwnership h (s.bitAnswered_pins ..) (s.bitAnswered_eng ..) pins eng
  · rw [exec_setPullDown] at h ⊢
    rw [State.bitAnswered_ownership]
    exact onPad_ignoresOwnership h (s.bitAnswered_pins ..) (s.bitAnswered_eng ..) pins eng

end Sys2Proof.Machine
end

section
/-! SUPPORT. The Open-Drain Pin Emulator's operations (spec/41_open_drain.md R150 to R153, R155): O17 to O21. -/

namespace Sys2Proof.Machine

variable {s t : State} {g p q : Nat} {o : Od}

/-! ### `acquire` (R150) -/

theorem pin_acquirePin_same (s : State) (h : p < s.pins.length) : (acquirePin s p).pin p =
    { ovr := true, oe := false, out := false, owner := .emulator, od := some .released } :=
  State.pin_updPin_same _ _ h

theorem pin_acquirePin_other (s : State) (h : q ≠ p) : (acquirePin s p).pin q = s.pin q :=
  State.pin_updPin_other _ _ h

theorem exec_acquire_of_error {e : Status} (h : acquireError s g p = some e) :
    exec (.acquire g p) s = raise e s := by
  simp only [exec, execAcquire, h]

theorem exec_acquire_of_free (h : acquireError s g p = none) :
    exec (.acquire g p) s = returnOk (acquirePin s p) := by
  simp only [exec, execAcquire, h]

theorem acquireError_of_unsupported (h : ¬ (g = 0 ∧ p < s.cfg.nPads)) :
    acquireError s g p = some .pinConfigurationFailed := by
  simp [acquireError, mt supported_iff.1 h]

theorem acquireError_of_engine (h : g = 0 ∧ p < s.cfg.nPads) (howner : (s.pin p).owner = .engine) :
    acquireError s g p = some .pinAlreadyOwned := by
  simp [acquireError, supported_iff.2 h, howner]

theorem acquireError_of_emulator (h : g = 0 ∧ p < s.cfg.nPads) (howner : (s.pin p).owner = .emulator) :
    acquireError s g p = some .refused := by
  simp [acquireError, supported_iff.2 h, howner]

/-- Of the pad words `acquire` writes the pad's pull-up enable, as `set_pull_up g, p, true` does. -/
theorem ShapeInv.padBit_acquirePin (h : ShapeInv s) (hp : p < s.cfg.nPads) (a b : Nat) :
    (acquirePin s p).padBit a b = if a = padWordOf s.cfg p ∧ b = pueBitOf s.cfg p then true else s.padBit a b :=
  h.padBit_bitAnswered (enableBit_pue hp) true a b

/-- Settles O17: the first check that fails is the answer; a free pin of a supported pad is claimed. -/
theorem acquireClaimsThePin : Obligations.AcquireClaimsThePin := by
  intro g p s h
  refine ⟨fun hno => exec_acquire_of_error (acquireError_of_unsupported hno),
    fun hpad howner => exec_acquire_of_error (acquireError_of_engine hpad howner),
    fun hpad howner => exec_acquire_of_error (acquireError_of_emulator hpad howner), fun hpad howner => ?_⟩
  have hfree := acquireError_none_iff.2 ⟨supported_iff.2 hpad, howner⟩
  obtain ⟨-, hp⟩ := hpad
  exact ⟨_, exec_acquire_of_free hfree, rfl, pin_acquirePin_same s (h.pins ▸ hp), fun _ => pin_acquirePin_other s,
    h.padBit_acquirePin hp⟩

/-! ### `release` and `drive_low` (R151, R152) -/

/-- What `release` (`o = Released`) and `drive_low` (`o = DrivenLow`) do on pin `p`. -/
def execSetOd (o : Od) (p : Nat) (s : State) : Host.Outcome State Fault Refusal :=
  if acquired s p then returnOk (s.setOdAt p o) else raise .refused s

theorem exec_release (p : Nat) (s : State) : exec (.release p) s = execSetOd .released p s := by
  cases h : acquired s p <;> simp [exec, execRelease, execSetOd, h]

theorem exec_driveLow (p : Nat) (s : State) : exec (.driveLow p) s = execSetOd .drivenLow p s := by
  cases h : acquired s p <;> simp [exec, execDriveLow, execSetOd, h]

theorem execSetOd_not_acquired (h : s.cfg.nPads ≤ p ∨ (s.pin p).od = none) :
    execSetOd o p s = .next { s with rsp := some 0x70000000#32 } := by
  have hno : ¬ acquired s p = true := by
    rw [acquired_iff]
    rintro ⟨hp, hod⟩
    exact h.elim (not_le.2 hp) hod
  exact if_neg hno

theorem execSetOd_acquired (h : p < s.cfg.nPads ∧ (s.pin p).od ≠ none) :
    execSetOd o p s = .next ((s.setOdAt p o).respond (statusOnly .ok)) :=
  if_pos (acquired_iff.2 h)

@[simp] theorem State.ext_setOdAt (s : State) (p : Nat) (o : Od) (q : Nat) : (s.setOdAt p o).ext q = s.ext q := rfl

/-- Another participant's pull decides the line of a pin whose output is disabled (R67). -/
theorem State.line_of_disabled_pulledLow (hoe : (s.pin p).oe = false) (hext : s.ext p = true) : s.line p = .low := by
  have hdrive : s.drive p = .hiZ := (Pin.drive_hiZ_iff _).2 hoe
  rw [State.line, hdrive, hext, resolve_hiZ_ext]

/-- An output enabled under the override sinks the line, whatever `ext` and the pulls are (R67). -/
theorem State.line_of_override (hoe : (s.pin p).oe = true) (hovr : (s.pin p).ovr = true) : s.line p = .low := by
  have hdrive : s.drive p = .low := Pin.drive_low_of_override hoe hovr
  rw [State.line, hdrive, resolve_low]

/-- Settles O18: the pin's output ends disabled, so its line is left to the other participants and the pulls. -/
theorem releaseDisablesTheOutput : Obligations.ReleaseDisablesTheOutput := by
  intro p s
  rw [exec_release]
  refine ⟨execSetOd_not_acquired, fun h => ⟨_, execSetOd_acquired h, rfl, ?_⟩⟩
  have hpin := s.pin_setOdAt_same .released (s.pin_lt_of_od h.2)
  have hoe : ((s.setOdAt p .released).pin p).oe = false := by rw [hpin]; rfl
  refine ⟨hpin, fun _ => s.pin_setOdAt_other .released, ?_, ?_⟩
  · exact State.line_of_disabled_pulledLow hoe
  · rintro hext ⟨hpue, hpde⟩
    exact (State.line_of_released _ hoe hpue hpde).trans (by simp [hext])

/-- Settles O19: the pin's output ends enabled, and under the override it sinks the line. -/
theorem driveLowSinksTheLine : Obligations.DriveLowSinksTheLine := by
  intro p s
  rw [exec_driveLow]
  refine ⟨execSetOd_not_acquired, fun h => ⟨_, execSetOd_acquired h, rfl, ?_⟩⟩
  have hpin := s.pin_setOdAt_same .drivenLow (s.pin_lt_of_od h.2)
  refine ⟨hpin, fun _ => s.pin_setOdAt_other .drivenLow, fun hovr => ?_⟩
  exact State.line_of_override (s := s.setOdAt p .drivenLow) (by rw [hpin]; rfl) (by rw [hpin]; exact hovr)

/-! ### `read` (R153) -/

theorem exec_read_not_released (h : ¬ (p < s.cfg.nPads ∧ (s.pin p).od = some .released)) :
    exec (.read p) s = .next { s with rsp := some 0x70000000#32 } :=
  if_pos (by simpa [imp_iff_not_or] using h)

theorem exec_read_released (h : p < s.cfg.nPads ∧ (s.pin p).od = some .released) :
    exec (.read p) s = .next ((s.afterSample p).respond (okValue (s.sampleValue p))) :=
  if_neg (by simp [h])

/-- Settles O20: the answer is a use of the line, which gives its level and draws nothing where it has one. -/
theorem readAnswersTheLine : Obligations.ReadAnswersTheLine := by
  intro p s
  have hlevel (hline : s.line p ≠ .unspecified) :
      s.sampleValue p = decide (s.line p = .high) ∧ (s.afterSample p).draws = s.draws := by
    obtain ⟨hsame, hvalue⟩ := s.sample_of_level hline
    exact ⟨hvalue, by rw [hsame]⟩
  refine ⟨exec_read_not_released, fun h => ⟨s.sampleValue p, (s.afterSample p).draws, ?_, ?_, ?_⟩⟩
  · rw [exec_read_released h, s.afterSample_eq, okValue_eq]
    rfl
  · intro hline
    simpa [hline] using hlevel
  · intro hline
    simpa [hline] using hlevel

/-! ### An acquired pin stays acquired (R155) -/

/-- Pin `p` has the same owner and override in `t` as in `s`. -/
def SameClaim (p : Nat) (s t : State) : Prop := (t.pin p).owner = (s.pin p).owner ∧ (t.pin p).ovr = (s.pin p).ovr

theorem SameClaim.of_pin (h : t.pin p = s.pin p) : SameClaim p s t := by simp [SameClaim, h]

theorem SameClaim.of_pins (h : t.pins = s.pins) : SameClaim p s t := .of_pin (by simp only [State.pin, h])

theorem SameClaim.trans {u : State} (h : SameClaim p s t) (h' : SameClaim p t u) : SameClaim p s u :=
  ⟨h'.1.trans h.1, h'.2.trans h.2⟩

/-- `SetOd` writes neither the owner nor the override of any pin. -/
theorem SameClaim.setOdAt (s : State) (q : Nat) (o : Od) : SameClaim p s (s.setOdAt q o) :=
  ⟨State.pin_updPin_field Pin.owner s q p _ fun _ => rfl, State.pin_updPin_field Pin.ovr s q p _ fun _ => rfl⟩

theorem SameClaim.startTransaction (sel cmd : Byte) (n : Nat) (s : State) :
    SameClaim p s (startTransaction sel cmd n s) :=
  SameClaim.setOdAt s s.cfg.busPin .drivenLow

theorem SameClaim.tick (s : State) : SameClaim p s (tick s) := by
  obtain ⟨hovr, howner, -⟩ := tick_pin s p
  exact ⟨howner, hovr⟩

/-- A pin that nobody owns is not one of the Emulator's. -/
theorem SameClaim.acquirePin (hp : (s.pin p).owner = .emulator) (hq : (s.pin q).owner = .nobody) :
    SameClaim p s (acquirePin s q) := by
  refine .of_pin (pin_acquirePin_other s ?_)
  rintro rfl
  simp [hp] at hq

/-- The pin `start` takes is not one of the Emulator's (R172). -/
theorem SameClaim.startEngine (hp : (s.pin p).owner = .emulator) (hq : (s.pin s.eng.pin.toNat).owner ≠ .emulator) :
    SameClaim p s (startEngine s) := by
  refine .of_pin (State.pin_updPin_other _ _ ?_)
  rintro rfl
  exact hq hp

/-- The pin `stop` gives up is the engine's, by I2, and so not one of the Emulator's (R173). -/
theorem Inv.sameClaim_stopEngine (h : Inv s) (hlt : p < s.cfg.nPads) (hp : (s.pin p).owner = .emulator)
    (hrun : s.eng.run = true) : SameClaim p s (stopEngine s) := by
  refine .of_pin (State.pin_updPin_other _ _ ?_)
  rintro rfl
  simp [(h.engine.owned _ hlt).2 ⟨hrun, rfl⟩] at hp

/-- The operations that write an owner or an override are `acquire`, a `transact` that has to acquire, `start` and
`stop`, and each writes them of a pin that the Emulator does not own. -/
theorem exec_sameClaim (h : Inv s) (hlt : p < s.cfg.nPads) (hp : (s.pin p).owner = .emulator) {i : Instr}
    (ht : exec i s = .next t) : SameClaim p s t := by
  cases i with
  | getPullUp g i => obtain ⟨-, rfl⟩ | ⟨-, rfl⟩ := execGetPullUp_cases ht <;> exact .of_pins rfl
  | setPullUp g i enabled =>
    obtain ⟨-, rfl⟩ | ⟨-, -, rfl⟩ | ⟨-, -, rfl⟩ := execSetPullUp_cases ht <;> exact .of_pins rfl
  | getPullDown g i => obtain ⟨-, rfl⟩ | ⟨-, rfl⟩ := execGetPullDown_cases ht <;> exact .of_pins rfl
  | setPullDown g i enabled =>
    obtain ⟨-, rfl⟩ | ⟨-, -, rfl⟩ | ⟨-, -, rfl⟩ := execSetPullDown_cases ht <;> exact .of_pins rfl
  | acquire g q =>
    obtain ⟨e, -, rfl⟩ | ⟨hfree, rfl⟩ := execAcquire_cases ht
    · exact .of_pins rfl
    · exact .acquirePin hp (acquireError_none_iff.1 hfree).2
  | release q =>
    obtain ⟨-, rfl⟩ | ⟨-, rfl⟩ := execRelease_cases ht
    · exact .of_pins rfl
    · exact .setOdAt s q .released
  | driveLow q =>
    obtain ⟨-, rfl⟩ | ⟨-, rfl⟩ := execDriveLow_cases ht
    · exact .of_pins rfl
    · exact .setOdAt s q .drivenLow
  | read q => obtain ⟨-, rfl⟩ | ⟨-, -, rfl⟩ := execRead_cases ht <;> exact .of_pins (by simp)
  | configure q half => obtain ⟨-, rfl⟩ | ⟨-, -, -, rfl⟩ := execConfigure_cases ht <;> exact .of_pins rfl
  | start k =>
    obtain ⟨-, rfl⟩ | ⟨-, -, -, ⟨-, rfl⟩ | ⟨hfree, rfl⟩⟩ := execStart_cases ht
    · exact .of_pins rfl
    · exact .of_pins rfl
    · exact .startEngine hp hfree
  | stop k =>
    obtain ⟨-, rfl⟩ | ⟨-, -, rfl⟩ | ⟨-, hrun, rfl⟩ := execStop_cases ht
    · exact .of_pins rfl
    · exact .of_pins rfl
    · exact h.sameClaim_stopEngine hlt hp hrun
  | transact sel cmd n =>
    obtain ⟨-, rfl⟩ | ⟨-, -, ⟨e, -, rfl⟩ | ⟨hfree, rfl⟩⟩ | ⟨-, -, rfl⟩ := execTransact_cases ht
    · exact .of_pins rfl
    · exact .of_pins rfl
    · exact (SameClaim.acquirePin hp (acquireError_none_iff.1 hfree).2).trans (.startTransaction ..)
    · exact .startTransaction ..
  | wrbuf k byte => obtain ⟨-, rfl⟩ | ⟨-, rfl⟩ := execWrbuf_cases ht <;> exact .of_pins rfl

theorem step_sameClaim (h : Inv s) (hlt : p < s.cfg.nPads) (hp : (s.pin p).owner = .emulator) (hrst : s.rst = false)
    (ht : step s = .next t) : SameClaim p s t := by
  obtain ⟨-, ⟨hreset, -⟩ | ⟨-, rfl⟩ | ⟨w, i, -, -, hexec⟩ | ⟨w, -, -, rfl⟩⟩ := step_cases ht
  · simp [hrst] at hreset
  · exact .tick s
  · exact exec_sameClaim (s := s.taken) h.taken hlt hp hexec
  · exact .of_pins rfl

/-- `start` of an engine configured on a pin of the Emulator (R172). -/
theorem exec_start_of_emulator (hcfgd : s.eng.cfgd = true) (hrun : s.eng.run = false)
    (hp : (s.pin s.eng.pin.toNat).owner = .emulator) :
    exec (.start 0) s = .next { s with rsp := some 0x30000000#32 } := by
  simp only [exec, execStart, hcfgd, hrun, hp]
  rfl

/-- Settles O21: no step but a reset writes the owner or the override of a pin that the Emulator owns. -/
theorem acquiredPinStaysAcquired : Obligations.AcquiredPinStaysAcquired := by
  intro s t p h hlt hp hovr
  refine ⟨fun hrst ht => ?_, ?_⟩
  · obtain ⟨howner', hovr'⟩ := step_sameClaim h hlt hp hrst ht
    exact ⟨howner'.trans hp, hovr'.trans hovr⟩
  · rintro hcfgd hrun rfl
    exact exec_start_of_emulator hcfgd hrun hp

end Sys2Proof.Machine
end

section
/-! SUPPORT. The Bit Timing Engine's operations and its waveform (spec/42_bit_timing.md R171 to R176): O25 to O31. -/

namespace Sys2Proof.Machine

variable {s t : State} {p half k m : Nat}

/-! ### `configure` (R171) -/

theorem exec_configure_refused (h : s.eng.run = true ∨ s.cfg.nPads ≤ p ∨ half = 0) :
    exec (.configure p half) s = raise .refused s := by
  simp only [exec, execConfigure]
  split_ifs with hrun hp hhalf
  · rfl
  · rfl
  · rfl
  · simp [hrun, hp, hhalf] at h

theorem exec_configure_accepted (hrun : s.eng.run = false) (hp : p < s.cfg.nPads) (hhalf : half ≠ 0) :
    exec (.configure p half) s = .next { s with
      eng := { s.eng with cfgd := true, pin := BitVec.ofNat 8 p, half := BitVec.ofNat 16 half },
      rsp := some 0x00000000#32 } := by
  simp only [exec, execConfigure, hrun, not_le.2 hp, hhalf]
  rfl

/-- Settles O25: a well-formed operand fits its register, so the register holds it uncut. -/
theorem configureLoadsTheEngine : Obligations.ConfigureLoadsTheEngine := by
  intro p half s hwf
  obtain ⟨hp256, hhalf16⟩ : IndexFits p ∧ ImmediateFits half := by simpa [WellFormed, Instr.wellFormed] using hwf
  refine ⟨exec_configure_refused, fun ⟨hrun, hp, hhalf⟩ => ⟨_, exec_configure_accepted hrun hp hhalf, rfl, ?_, ?_⟩⟩
  · exact (BitVec.toNat_ofNat ..).trans (Nat.mod_eq_of_lt hp256)
  · exact (BitVec.toNat_ofNat ..).trans (Nat.mod_eq_of_lt hhalf16)

/-! ### `start` (R172) -/

theorem exec_start_refused (h : k ≠ 0 ∨ s.eng.cfgd = false ∨ s.eng.run = true) :
    exec (.start k) s = raise .refused s :=
  if_pos (by simpa [or_assoc] using h)

theorem exec_start_of_free (hcfgd : s.eng.cfgd = true) (hrun : s.eng.run = false)
    (hfree : (s.pin s.eng.pin.toNat).owner ≠ .emulator) : exec (.start 0) s = returnOk (startEngine s) := by
  simp [exec, execStart, hcfgd, hrun, hfree]

theorem pin_startEngine_same (s : State) (hp : s.eng.pin.toNat < s.pins.length) :
    (startEngine s).pin s.eng.pin.toNat =
      { s.pin s.eng.pin.toNat with owner := .engine, oe := true, out := true } :=
  s.pin_updPin_same _ hp

theorem pin_startEngine_other (s : State) (hp : p ≠ s.eng.pin.toNat) : (startEngine s).pin p = s.pin p :=
  s.pin_updPin_other _ hp

/-- The pin of a configured engine is one of the pins there are (R38). -/
theorem EngineInv.pin_lt (h : EngineInv s) (hshape : ShapeInv s) (hcfgd : s.eng.cfgd = true) :
    s.eng.pin.toNat < s.pins.length :=
  hshape.pins ▸ (h.configured hcfgd).1

/-- A line driven high has no specified level where another participant pulls it low (R67). -/
theorem State.line_of_contention (hdrive : s.drive p = .high) (hext : s.ext p = true) : s.line p = .unspecified := by
  rw [State.line, hdrive, hext, resolve_contention]

/-- Settles O26: the checks of `start` in their order; the pin it takes ends enabled with `out` at 1. -/
theorem startBeginsTheWaveform : Obligations.StartBeginsTheWaveform := by
  intro k s hshape heng
  refine ⟨exec_start_refused, ?_, ?_⟩
  · rintro ⟨rfl, hcfgd, hrun⟩ howner
    exact exec_start_of_emulator hcfgd hrun howner
  · rintro ⟨rfl, hcfgd, hrun⟩ hfree
    have hpin := pin_startEngine_same s (heng.pin_lt hshape hcfgd)
    refine ⟨_, exec_start_of_free hcfgd hrun hfree, rfl, hpin, fun hovr => ?_, fun _ => pin_startEngine_other s⟩
    have hdrive : (startEngine s).drive s.eng.pin.toNat = .high :=
      (Pin.drive_high_iff _).2 (by rw [hpin]; exact ⟨rfl, hovr, rfl⟩)
    exact ⟨hdrive, State.line_of_drive_out _ (out := true) hdrive, State.line_of_contention hdrive⟩

/-! ### `stop` (R173) -/

theorem exec_stop_refused (h : k ≠ 0) : exec (.stop k) s = raise .refused s := if_pos h

theorem exec_stop_of_stopped (hrun : s.eng.run = false) : exec (.stop 0) s = returnOk s := by
  simp [exec, execStop, hrun]

theorem exec_stop_of_running (hrun : s.eng.run = true) : exec (.stop 0) s = returnOk (stopEngine s) := by
  simp [exec, execStop, hrun]

/-- Settles O27: the engine's pin ends disabled, and so drives nothing. -/
theorem stopLeavesThePinUndriven : Obligations.StopLeavesThePinUndriven := by
  intro k s hshape heng
  refine ⟨exec_stop_refused, ?_, ?_⟩
  · rintro rfl hrun
    exact exec_stop_of_stopped hrun
  · rintro rfl hrun
    obtain ⟨hcfgd, -⟩ := heng.running hrun
    have hpin : (stopEngine s).pin s.eng.pin.toNat =
        { s.pin s.eng.pin.toNat with owner := .nobody, oe := false, out := false } :=
      s.pin_updPin_same _ (heng.pin_lt hshape hcfgd)
    refine ⟨_, exec_stop_of_running hrun, rfl, hpin, ?_, fun _ => s.pin_updPin_other _⟩
    exact (Pin.drive_hiZ_iff _).2 (by rw [State.pin_respond, hpin])

/-! ### The engine in a clock cycle (R174) -/

/-- The engine's stage neither reads nor writes the draw counter and the response. -/
theorem engineStage_with_draws_rsp (s : State) (d : Nat) (r : Option Word) :
    engineStage { s with draws := d, rsp := r } = { engineStage s with draws := d, rsp := r } := by
  unfold engineStage engineTick
  by_cases hrun : s.eng.run = true
  · by_cases hcnt : s.eng.cnt = 1#16
    · simp only [hrun, hcnt, if_true]; rfl
    · simp only [hrun, hcnt, if_true, if_false]
  · simp only [hrun]; rfl

theorem beforeDriver_eq (s : State) :
    beforeDriver s = { engineStage s with draws := (busSampled s).draws, rsp := none } := by
  rw [beforeDriver, busSampled_eq]
  exact engineStage_with_draws_rsp s _ none

theorem tick_eng (s : State) : (tick s).eng = (engineStage s).eng := by
  rw [tick_eq, State.nextCycle_eng, (driverStage_same _ _).eng, beforeDriver_eq]

theorem tick_eng_of_running (hrun : s.eng.run = true) : (tick s).eng = (engineTick s).eng := by
  rw [tick_eng, engineStage, if_pos hrun]

/-- An acquired pin is not the engine's (R37, R38). -/
theorem Inv.ne_enginePin_of_acquired (h : Inv s) (hrun : s.eng.run = true) (hod : (s.pin p).od ≠ none) :
    p ≠ s.eng.pin.toNat := by
  rintro rfl
  obtain ⟨-, hnone, -⟩ := h.enginePin_registers ⟨hrun, rfl⟩
  exact hod hnone

/-- The bus pin of a running transaction is acquired (I4), so the engine's is another pin (R75). -/
theorem Inv.enginePin_ne_busPin (h : Inv s) (hrun : s.eng.run = true) (hbusy : s.drv.busy = true) :
    s.eng.pin.toNat ≠ s.cfg.busPin :=
  (h.ne_enginePin_of_acquired hrun (h.driver.busPin hbusy).1).symm

theorem Inv.tick_enginePin (h : Inv s) (hrun : s.eng.run = true) :
    (tick s).pin s.eng.pin.toNat = (engineTick s).pin s.eng.pin.toNat := by
  obtain ⟨hcfg, -, -, hdrv, -⟩ := beforeDriver_same s
  have hbefore : (beforeDriver s).pin s.eng.pin.toNat = (engineTick s).pin s.eng.pin.toNat := by
    rw [beforeDriver_eq, engineStage, if_pos hrun]; rfl
  rw [tick_eq, State.pin_nextCycle, ← hbefore]
  cases hbusy : s.drv.busy with
  | false => rw [driverStage_of_idle (hdrv ▸ hbusy)]
  | true => exact (driverStage_same _ _).others _ (hcfg ▸ h.enginePin_ne_busPin hrun hbusy)

/-- Settles O28: the clock cycle does to the engine and its pin what `EngineTick` does, in either of its two cases. -/
theorem engineTickTogglesAtTheHalfPeriod : Obligations.EngineTickTogglesAtTheHalfPeriod := by
  intro s h
  refine ⟨fun hrun hlast => ?_, fun hrun hmore => ?_, fun hrun => ?_, fun q hq => ?_⟩
  · obtain ⟨hcfgd, -⟩ := h.engine.running hrun
    rw [tick_eng_of_running hrun, h.tick_enginePin hrun, engineTick, if_pos hlast]
    exact ⟨rfl, s.pin_updPin_same _ (h.engine.pin_lt h.shape hcfgd)⟩
  · rw [tick_eng_of_running hrun, h.tick_enginePin hrun, engineTick, if_neg hmore]
    exact ⟨rfl, rfl⟩
  · rw [tick_eng, engineStage, if_neg (by simp [hrun])]
  · obtain ⟨-, -, hout, -⟩ := tick_pin s q
    exact hout hq

/-! ### The waveform (R175) -/

/-- The running engine is in cycle `m` of a waveform whose cycle 0 began a high half-period: `m / half` half-periods
are over, and `m % half` cycles of the present one. -/
structure WaveAt (m : Nat) (s : State) : Prop where
  inv : Inv s
  run : s.eng.run = true
  lvl : s.eng.lvl = decide (m / s.eng.half.toNat % 2 = 0)
  cnt : s.eng.cnt.toNat = s.eng.half.toNat - m % s.eng.half.toNat

theorem Inv.half_pos_of_running (h : Inv s) (hrun : s.eng.run = true) : 0 < s.eng.half.toNat := by
  obtain ⟨hcfgd, -⟩ := h.engine.running hrun
  obtain ⟨-, hpos⟩ := h.engine.configured hcfgd
  exact hpos

theorem tick_program (hrun : s.eng.run = true) :
    (tick s).eng.run = true ∧ (tick s).eng.pin = s.eng.pin ∧ (tick s).eng.half = s.eng.half := by
  obtain ⟨hrun', -, hpin, hhalf⟩ := engineTick_eng s
  rw [tick_eng_of_running hrun]
  exact ⟨hrun'.trans hrun, hpin, hhalf⟩

theorem decide_even_succ (n : Nat) : decide ((n + 1) % 2 = 0) = !decide (n % 2 = 0) := by
  rw [← decide_not, decide_eq_decide]
  omega

/-- A count of 1 is the last cycle of a half-period: the next cycle begins another one, at the other level. -/
theorem WaveAt.engineTick (w : WaveAt m s) :
    (engineTick s).eng.lvl = decide ((m + 1) / s.eng.half.toNat % 2 = 0) ∧
    (engineTick s).eng.cnt.toNat = s.eng.half.toNat - (m + 1) % s.eng.half.toNat := by
  obtain ⟨h, hrun, hlvl, hcnt⟩ := w
  have hpos := h.half_pos_of_running hrun
  have hlt := Nat.mod_lt m hpos
  have hm := Nat.mod_add_div m s.eng.half.toNat
  rcases engineTick_cases s with ⟨hlast, heq⟩ | ⟨hmore, heq⟩ <;> rw [heq]
  · have hnext : 0 + s.eng.half.toNat * (m / s.eng.half.toNat + 1) = m + 1 := by
      rw [Nat.mul_succ]
      bv_omega
    obtain ⟨hdiv, hmod⟩ := (Nat.div_mod_unique hpos).2 ⟨hnext, hpos⟩
    rw [hdiv, hmod, decide_even_succ, ← hlvl]
    exact ⟨rfl, rfl⟩
  · have hgt : 1 < s.eng.cnt.toNat := by bv_omega
    have hnext : m % s.eng.half.toNat + 1 + s.eng.half.toNat * (m / s.eng.half.toNat) = m + 1 := by omega
    obtain ⟨hdiv, hmod⟩ := (Nat.div_mod_unique hpos).2 ⟨hnext, by omega⟩
    rw [hdiv, hmod]
    exact ⟨hlvl, by bv_omega⟩

theorem WaveAt.tick (w : WaveAt m s) : WaveAt (m + 1) (tick s) := by
  obtain ⟨hrun, -, hhalf⟩ := tick_program w.run
  obtain ⟨hlvl, hcnt⟩ := w.engineTick
  rw [← tick_eng_of_running w.run, ← hhalf] at hlvl hcnt
  exact ⟨tick_inv w.inv, hrun, hlvl, hcnt⟩

theorem ticks_program (k : Nat) (hrun : s.eng.run = true) :
    (ticks k s).eng.run = true ∧ (ticks k s).eng.pin = s.eng.pin ∧ (ticks k s).eng.half = s.eng.half := by
  induction k generalizing s with
  | zero => exact ⟨hrun, rfl, rfl⟩
  | succ k ih =>
    obtain ⟨hrun', hpin, hhalf⟩ := tick_program hrun
    rw [← hpin, ← hhalf]
    exact ih hrun'

theorem WaveAt.ticks (w : WaveAt m s) (k : Nat) : WaveAt (m + k) (ticks k s) := by
  induction k generalizing m s with
  | zero => exact w
  | succ k ih =>
    rw [← Nat.add_assoc, Nat.add_right_comm]
    exact ih w.tick

/-- What the pin shows in a cycle of the waveform (R66, R175). -/
theorem Inv.enginePin_shows (h : Inv s) (hp : EnginePin s p) :
    (s.pin p).out = s.eng.lvl ∧ s.drive p = if s.eng.lvl then .high else .low := by
  obtain ⟨-, -, -, hout⟩ := h.enginePin_registers hp
  exact ⟨hout, hout ▸ h.drive_of_enginePin hp⟩

/-- The invariant speaks of the driver and of the rest of the registers apart: `start` keeps it while a transaction
runs too, since it writes no `od`. -/
theorem Inv.startEngine (h : Inv s) (hcfgd : s.eng.cfgd = true) (hrun : s.eng.run = false)
    (hfree : (s.pin s.eng.pin.toNat).owner ≠ .emulator) : Inv (startEngine s) := by
  have hidle : Inv { s with drv := Driver.atReset } :=
    ⟨h.shape.of_eq rfl rfl rfl rfl, h.pins, h.engine.of_eq rfl rfl (fun _ => rfl) (fun _ => rfl) fun _ _ _ => rfl,
      ⟨nofun, rfl, nofun, fun _ => rfl⟩, nofun⟩
  have hstarted := startEngine_inv hidle rfl hcfgd hrun hfree
  have hod : busOd (Machine.startEngine s) = busOd s := State.pin_updPin_field Pin.od s _ _ _ fun _ => rfl
  exact ⟨hstarted.shape.of_eq rfl rfl rfl rfl, hstarted.pins,
    hstarted.engine.of_eq rfl rfl (fun _ => rfl) (fun _ => rfl) fun _ _ _ => rfl,
    h.driver.of_eq rfl rfl fun _ => hod, fun hbusy => (h.position hbusy).of_eq rfl rfl rfl hod⟩

/-- A `start` that leaves the engine running was accepted. -/
theorem exec_start_running (hrun : s.eng.run = false) (ht : exec (.start k) s = .next t) (hrun' : t.eng.run = true) :
    s.eng.cfgd = true ∧ (s.pin s.eng.pin.toNat).owner ≠ .emulator ∧ t = (startEngine s).respond (statusOnly .ok) := by
  obtain ⟨-, rfl⟩ | ⟨-, hcfgd, -, ⟨-, rfl⟩ | ⟨hfree, rfl⟩⟩ := execStart_cases ht
  · simp [hrun] at hrun'
  · simp [hrun] at hrun'
  · exact ⟨hcfgd, hfree, rfl⟩

/-- `start` begins the waveform (R172). -/
theorem WaveAt.startEngine (h : Inv s) (hcfgd : s.eng.cfgd = true) (hrun : s.eng.run = false)
    (hfree : (s.pin s.eng.pin.toNat).owner ≠ .emulator) :
    WaveAt 0 ((startEngine s).respond (statusOnly .ok)) where
  inv := (h.startEngine hcfgd hrun hfree).respond _
  run := rfl
  lvl := by simp [Machine.startEngine]
  cnt := by simp [Machine.startEngine]

/-- Settles O29: an accepted `start` begins the waveform, and `k` ticks later it is in its cycle `k`. -/
theorem squareWaveClosedForm : Obligations.SquareWaveClosedForm := by
  intro s s0 k h hrun ht hrun0
  obtain ⟨hcfgd, hfree, rfl⟩ := exec_start_running hrun ht hrun0
  obtain ⟨hrun', hpin, hhalf⟩ := ticks_program k hrun0
  obtain ⟨hinv, -, hlvl, hcnt⟩ := (WaveAt.startEngine h hcfgd hrun hfree).ticks k
  obtain ⟨hout, hdrive⟩ := hinv.enginePin_shows ⟨hrun', congrArg BitVec.toNat hpin⟩
  rw [hhalf, Nat.zero_add] at hlvl hcnt
  rw [hlvl] at hout hdrive
  exact ⟨hrun', hlvl, hout, hdrive.trans (if_congr decide_eq_true_iff rfl rfl), hcnt⟩

/-- A running engine is somewhere in the waveform: in its first half-period, or in its second (R38). -/
theorem Inv.exists_waveAt (h : Inv s) (hrun : s.eng.run = true) : ∃ m, WaveAt m s := by
  obtain ⟨-, -, -, hcnt, hle⟩ := h.engine.running hrun
  have hlt : s.eng.half.toNat - s.eng.cnt.toNat < s.eng.half.toNat := by omega
  have hpos := h.half_pos_of_running hrun
  cases hlvl : s.eng.lvl with
  | true =>
    refine ⟨s.eng.half.toNat - s.eng.cnt.toNat, h, hrun, ?_, ?_⟩
    · simp [hlvl, Nat.div_eq_of_lt hlt]
    · rw [Nat.mod_eq_of_lt hlt]; omega
  | false =>
    refine ⟨s.eng.half.toNat + (s.eng.half.toNat - s.eng.cnt.toNat), h, hrun, ?_, ?_⟩
    · simp [hlvl, Nat.add_div_left _ hpos, Nat.div_eq_of_lt hlt]
    · rw [Nat.add_mod_left, Nat.mod_eq_of_lt hlt]; omega

/-- One half-period later the level is the other one (R175). -/
theorem Inv.lvl_after_half (h : Inv s) (hrun : s.eng.run = true) :
    Inv (ticks s.eng.half.toNat s) ∧ (ticks s.eng.half.toNat s).eng.lvl = !s.eng.lvl := by
  obtain ⟨m, w⟩ := h.exists_waveAt hrun
  obtain ⟨-, -, hhalf⟩ := ticks_program s.eng.half.toNat hrun
  obtain ⟨hinv, -, hlvl, -⟩ := w.ticks s.eng.half.toNat
  refine ⟨hinv, ?_⟩
  rw [hlvl, w.lvl, hhalf, Nat.add_div_right _ (h.half_pos_of_running hrun), decide_even_succ]

/-- Settles O30: the pin shows the engine's level in both cycles, and the two levels differ. -/
theorem samplesHalfAPeriodApartDiffer : Obligations.SamplesHalfAPeriodApartDiffer := by
  intro s h hrun
  obtain ⟨hrun', hpin, -⟩ := ticks_program s.eng.half.toNat hrun
  obtain ⟨h', hlvl⟩ := h.lvl_after_half hrun
  obtain ⟨hout, hdrive⟩ := h.enginePin_shows ⟨hrun, rfl⟩
  obtain ⟨hout', hdrive'⟩ := h'.enginePin_shows ⟨hrun', congrArg BitVec.toNat hpin⟩
  rw [hlvl] at hout' hdrive'
  refine ⟨by simp [hout, hout'], ?_, fun hext hext' => ?_⟩
  · rw [hdrive, hdrive']
    cases s.eng.lvl <;> simp
  · rw [State.line_of_drive_out _ hdrive hext, State.line_of_drive_out _ hdrive' hext']
    cases s.eng.lvl <;> simp

/-! ### The other operations (R176) -/

/-- The engine's registers and those of its pin are in `t` what they are in `s`. -/
def SameEngine (s t : State) : Prop := t.eng = s.eng ∧ t.pin s.eng.pin.toNat = s.pin s.eng.pin.toNat

theorem SameEngine.of_pins (heng : t.eng = s.eng) (hpins : t.pins = s.pins) : SameEngine s t :=
  ⟨heng, by simp only [State.pin, hpins]⟩

theorem SameEngine.trans {u : State} (h : SameEngine s t) (h' : SameEngine t u) : SameEngine s u := by
  obtain ⟨heng, hpin⟩ := h
  obtain ⟨heng', hpin'⟩ := h'
  rw [heng] at heng' hpin'
  exact ⟨heng', hpin'.trans hpin⟩

theorem SameEngine.setOdAt (hp : p ≠ s.eng.pin.toNat) (o : Od) : SameEngine s (s.setOdAt p o) :=
  ⟨rfl, s.pin_setOdAt_other o hp.symm⟩

theorem SameEngine.acquirePin (hp : p ≠ s.eng.pin.toNat) : SameEngine s (acquirePin s p) :=
  ⟨rfl, pin_acquirePin_other s hp.symm⟩

theorem SameEngine.startTransaction (hp : s.cfg.busPin ≠ s.eng.pin.toNat) (sel cmd : Byte) (n : Nat) :
    SameEngine s (startTransaction sel cmd n s) :=
  SameEngine.setOdAt hp .drivenLow

/-- A pin that nobody owns is not the engine's (R38). -/
theorem Inv.ne_enginePin_of_nobody (h : Inv s) (hrun : s.eng.run = true) (hlt : p < s.cfg.nPads)
    (howner : (s.pin p).owner = .nobody) : p ≠ s.eng.pin.toNat := by
  rintro rfl
  simp [(h.engine.owned _ hlt).2 ⟨hrun, rfl⟩] at howner

theorem Inv.ne_enginePin_of_acquireError_none (h : Inv s) (hrun : s.eng.run = true) {g : Nat}
    (hfree : acquireError s g p = none) : p ≠ s.eng.pin.toNat := by
  obtain ⟨hsup, howner⟩ := acquireError_none_iff.1 hfree
  exact h.ne_enginePin_of_nobody hrun (supported_iff.1 hsup).2 howner

/-- Settles O31: of a running engine `configure` and `start` are refused; the operations that write a pin write one
that is acquired, or that nobody owns; the others write no pin. -/
theorem operationsLeaveTheEngineAlone : Obligations.OperationsLeaveTheEngineAlone := by
  intro i s t h hrun hi ht
  change SameEngine s t
  cases i with
  | getPullUp g i => obtain ⟨-, rfl⟩ | ⟨-, rfl⟩ := execGetPullUp_cases ht <;> exact .of_pins rfl rfl
  | setPullUp g i enabled =>
    obtain ⟨-, rfl⟩ | ⟨-, -, rfl⟩ | ⟨-, -, rfl⟩ := execSetPullUp_cases ht <;> exact .of_pins rfl rfl
  | getPullDown g i => obtain ⟨-, rfl⟩ | ⟨-, rfl⟩ := execGetPullDown_cases ht <;> exact .of_pins rfl rfl
  | setPullDown g i enabled =>
    obtain ⟨-, rfl⟩ | ⟨-, -, rfl⟩ | ⟨-, -, rfl⟩ := execSetPullDown_cases ht <;> exact .of_pins rfl rfl
  | acquire g p =>
    obtain ⟨e, -, rfl⟩ | ⟨hfree, rfl⟩ := execAcquire_cases ht
    · exact .of_pins rfl rfl
    · exact .acquirePin (h.ne_enginePin_of_acquireError_none hrun hfree)
  | release p =>
    obtain ⟨-, rfl⟩ | ⟨hacq, rfl⟩ := execRelease_cases ht
    · exact .of_pins rfl rfl
    · exact .setOdAt (h.ne_enginePin_of_acquired hrun (acquired_iff.1 hacq).2) .released
  | driveLow p =>
    obtain ⟨-, rfl⟩ | ⟨hacq, rfl⟩ := execDriveLow_cases ht
    · exact .of_pins rfl rfl
    · exact .setOdAt (h.ne_enginePin_of_acquired hrun (acquired_iff.1 hacq).2) .drivenLow
  | read p => obtain ⟨-, rfl⟩ | ⟨-, -, rfl⟩ := execRead_cases ht <;> exact .of_pins (by simp) (by simp)
  | configure p half =>
    obtain ⟨-, rfl⟩ | ⟨hstopped, -⟩ := execConfigure_cases ht
    · exact .of_pins rfl rfl
    · simp [hrun] at hstopped
  | start k =>
    obtain ⟨-, rfl⟩ | ⟨-, -, hstopped, -⟩ := execStart_cases ht
    · exact .of_pins rfl rfl
    · simp [hrun] at hstopped
  | stop k =>
    obtain ⟨-, rfl⟩ | ⟨-, -, rfl⟩ | ⟨rfl, -⟩ := execStop_cases ht
    · exact .of_pins rfl rfl
    · exact .of_pins rfl rfl
    · exact absurd rfl hi
  | transact sel cmd n =>
    obtain ⟨-, rfl⟩ | ⟨-, -, ⟨e, -, rfl⟩ | ⟨hfree, rfl⟩⟩ | ⟨-, hacq, rfl⟩ := execTransact_cases ht
    · exact .of_pins rfl rfl
    · exact .of_pins rfl rfl
    · have hbus := h.ne_enginePin_of_acquireError_none hrun hfree
      exact (SameEngine.acquirePin hbus).trans (.startTransaction (s := acquirePin s s.cfg.busPin) hbus sel cmd n)
    · exact .startTransaction (h.ne_enginePin_of_acquired hrun (needsAcquire_false_iff.1 hacq).2) sel cmd n
  | wrbuf k byte => obtain ⟨-, rfl⟩ | ⟨-, rfl⟩ := execWrbuf_cases ht <;> exact .of_pins rfl rfl

end Sys2Proof.Machine
end

section
/-! SUPPORT. The Single-Wire Bus Driver's operations, and the requests that wait while it is busy
(spec/43_bus_driver.md R201 to R205): O8 and O32 to O35; the CRC of R209: O40. -/

namespace Sys2Proof.Machine

variable {s : State}

/-! ### A busy driver takes no request (R205) -/

theorem engineStage_run (s : State) : (engineStage s).eng.run = s.eng.run := by
  unfold engineStage
  split
  · exact (engineTick_eng s).1
  · rfl

/-- Settles O8: a busy driver leaves the step to the clock, and the cycle that passes takes no request. -/
theorem busyStepIsATick : Obligations.BusyStepIsATick := by
  intro s hl hrst hbusy
  refine ⟨step_of_clockCycle hl (State.move_clock_iff.2 ⟨hrst, .inl hbusy⟩),
    by rw [tick_eng, engineStage_run], fun w rest hhost => ?_⟩
  obtain ⟨-, -, hnext⟩ := tick_schedule s
  rw [hnext, State.hostAfterCycle, hhost]

/-! ### `wrbuf` (R201) -/

theorem exec_wrbuf_outside {k : Nat} (h : s.cfg.maxData ≤ k) (byte : Byte) :
    exec (.wrbuf k byte) s = raise .refused s :=
  if_pos h

theorem exec_wrbuf_inside {k : Nat} (h : k < s.cfg.maxData) (byte : Byte) :
    exec (.wrbuf k byte) s = returnOk { s with txbuf := Memory.write s.txbuf k byte } :=
  if_neg (not_le.2 h)

/-- Settles O32: the store's own laws, at the index written and at every other. -/
theorem wrbufWritesOneEntry : Obligations.WrbufWritesOneEntry := by
  intro k byte s
  exact ⟨fun hout => exec_wrbuf_outside hout byte, fun hin => ⟨_, exec_wrbuf_inside hin byte, rfl,
    Memory.read_write_same .., fun a ha => Memory.read_write_other _ _ ha, fun hwf => Memory.wf_write hwf k byte⟩⟩

/-! ### `transact`: the three stages (R202, R203, R204) -/

section Transact
variable (sel cmd : Byte) {n : Nat}

theorem exec_transact_refused (h : transactRefused s n = true) : exec (.transact sel cmd n) s = raise .refused s :=
  if_pos h

theorem exec_transact_of_error (hreq : transactRefused s n = false) (hneed : needsAcquire s = true) {e : Status}
    (he : acquireError s s.cfg.busGrp s.cfg.busPin = some e) : exec (.transact sel cmd n) s = raise e s := by
  simp [exec, execTransact, hreq, hneed, he]

theorem exec_transact_of_free (hreq : transactRefused s n = false) (hneed : needsAcquire s = true)
    (hfree : acquireError s s.cfg.busGrp s.cfg.busPin = none) :
    exec (.transact sel cmd n) s = .next (startTransaction sel cmd n (acquirePin s s.cfg.busPin)) := by
  simp [exec, execTransact, hreq, hneed, hfree]

theorem exec_transact_of_acquired (hreq : transactRefused s n = false) (hacq : needsAcquire s = false) :
    exec (.transact sel cmd n) s = .next (startTransaction sel cmd n s) := by
  simp [exec, execTransact, hreq, hacq]

theorem transactRefused_iff :
    transactRefused s n = true ↔ s.cfg.maxData < n ∨ ∃ k < n, Memory.read s.txbuf k = none := by
  simp [transactRefused]

theorem transactRefused_of_written (hn : n ≤ s.cfg.maxData) (hw : ∀ k < n, Memory.read s.txbuf k ≠ none) :
    transactRefused s n = false :=
  transactRefused_false_iff.2 ⟨hn, fun k hk => Option.isSome_iff_ne_none.2 (hw k hk)⟩

theorem needsAcquire_iff :
    needsAcquire s = true ↔ ¬ (s.cfg.busGrp = 0 ∧ s.cfg.busPin < s.cfg.nPads) ∨ (s.pin s.cfg.busPin).od = none := by
  rw [← Bool.not_eq_false, needsAcquire_false_iff, supported_iff, not_and_or, ne_eq, not_not]

/-- What stage 3 writes into the bus pin (R204). -/
theorem pin_startTransaction_bus (s : State) (h : s.cfg.busPin < s.pins.length) :
    (startTransaction sel cmd n s).pin s.cfg.busPin = { s.pin s.cfg.busPin with oe := true, od := some .drivenLow } :=
  s.pin_setOdAt_same .drivenLow h

theorem pin_startTransaction_other (s : State) {q : Nat} (h : q ≠ s.cfg.busPin) :
    (startTransaction sel cmd n s).pin q = s.pin q :=
  s.pin_setOdAt_other .drivenLow h

theorem startTransaction_n (s : State) (h : n < 256) : (startTransaction sel cmd n s).drv.n.toNat = n := by
  simpa [startTransaction] using h

end Transact

/-- Settles O33: the request check is the first of the three stages. -/
theorem transactRequestCheckRefuses : Obligations.TransactRequestCheckRefuses :=
  fun sel cmd _ _ h => exec_transact_refused sel cmd (transactRefused_iff.2 h)

/-- Settles O34: the two errors of stage 2, else the pin is claimed and stage 3 starts from there. -/
theorem transactSetUpAcquiresTheBusPin : Obligations.TransactSetUpAcquiresTheBusPin := by
  intro sel cmd n s h hn hw
  have hreq := transactRefused_of_written hn hw
  refine ⟨fun hno => ?_, fun hpad hod howner => ?_, fun hpad hod howner => ?_⟩
  · exact exec_transact_of_error sel cmd hreq (needsAcquire_iff.2 (.inl hno)) (acquireError_of_unsupported hno)
  · exact exec_transact_of_error sel cmd hreq (needsAcquire_iff.2 (.inr hod)) (acquireError_of_engine hpad howner)
  · have hfree := acquireError_none_iff.2 ⟨supported_iff.2 hpad, howner⟩
    obtain ⟨-, -, -, -, -, -, -, -, hmax⟩ := legal_bus h.legal
    obtain ⟨-, hp⟩ := hpad
    have hlt : s.cfg.busPin < s.pins.length := h.pins ▸ hp
    have hpin : (startTransaction sel cmd n (acquirePin s s.cfg.busPin)).pin s.cfg.busPin =
        { ovr := true, oe := true, out := false, owner := .emulator, od := some .drivenLow } := by
      have hbus := pin_startTransaction_bus sel cmd (n := n) (acquirePin s s.cfg.busPin)
        ((List.length_modify ..).symm ▸ hlt)
      rwa [acquirePin_cfg, pin_acquirePin_same s hlt] at hbus
    refine ⟨_, exec_transact_of_free sel cmd hreq (needsAcquire_iff.2 (.inr hod)) hfree, rfl, rfl,
      startTransaction_n sel cmd _ (by omega), hpin, ?_, fun q hq => ?_, h.padBit_acquirePin hp⟩
    · apply State.line_of_override <;> rw [hpin]
    · exact (pin_startTransaction_other sel cmd (acquirePin s s.cfg.busPin) hq).trans (pin_acquirePin_other s hq)

/-- Settles O35: with the bus pin acquired, stage 3 follows stage 1. -/
theorem transactStartsTheStartPulse : Obligations.TransactStartsTheStartPulse := by
  intro sel cmd n s hn8 hn hw hgrp hp hod
  have hacq := needsAcquire_false_iff.2 ⟨supported_iff.2 ⟨hgrp, hp⟩, hod⟩
  have hpin := pin_startTransaction_bus sel cmd (n := n) s (s.pin_lt_of_od hod)
  refine ⟨_, exec_transact_of_acquired sel cmd (transactRefused_of_written hn hw) hacq, rfl, rfl,
    startTransaction_n sel cmd s hn8, hpin, fun hovr => ?_, fun q hq => pin_startTransaction_other sel cmd s hq⟩
  apply State.line_of_override <;> rw [hpin]
  exact hovr

/-! ### The CRC (R209) -/

/-- Settles O40: the values at given bytes, computed. -/
theorem crcWorkedValues : Obligations.CrcWorkedValues := by
  unfold Obligations.CrcWorkedValues
  simp [crcOf, crcRun, crcUpdate, crcShifts, crcShift, Config.ref, checkDigits]

end Sys2Proof.Machine
end

section
/-! SUPPORT. What one clock cycle does to a running transaction (spec/43_bus_driver.md R210 to R212, R218, R220,
R221, R223, R224): O41 to O44. -/

namespace Sys2Proof.Machine

variable {s t : State}

/-! ### `DriverTick` by the step the driver is in (R221) -/

section Steps
variable (x : Bool)

theorem driverTick_startLow (h : s.drv.step = .startLow) : driverTick x s = tickStartLow s := by
  rw [driverTick, h]

theorem driverTick_startRise (h : s.drv.step = .startRise) : driverTick x s = tickStartRise x s := by
  rw [driverTick, h]

theorem driverTick_bitFirst (h : s.drv.step = .bitFirst) : driverTick x s = tickBitFirst s := by
  rw [driverTick, h]

theorem driverTick_bitSecond (h : s.drv.step = .bitSecond) : driverTick x s = tickBitSecond s := by
  rw [driverTick, h]

theorem driverTick_ackDelay (h : s.drv.step = .ackDelay) : driverTick x s = tickAckDelay s := by
  rw [driverTick, h]

theorem driverTick_ackWait (h : s.drv.step = .ackWait) : driverTick x s = tickAckWait x s := by
  rw [driverTick, h]

theorem driverTick_ackRise (h : s.drv.step = .ackRise) : driverTick x s = tickAckRise x s := by
  rw [driverTick, h]

theorem driverTick_standby (h : s.drv.step = .standby) : driverTick x s = tickStandby s := by
  rw [driverTick, h]

end Steps

/-- Settles O41: only the three waits hand the sample on. -/
theorem samplesMatterOnlyInWaits : Obligations.SamplesMatterOnlyInWaits := by
  intro s hrise hwait hlet
  cases hs : s.drv.step with
  | startLow => rw [driverTick_startLow _ hs, driverTick_startLow _ hs]
  | startRise => exact absurd hs hrise
  | bitFirst => rw [driverTick_bitFirst _ hs, driverTick_bitFirst _ hs]
  | bitSecond => rw [driverTick_bitSecond _ hs, driverTick_bitSecond _ hs]
  | ackDelay => rw [driverTick_ackDelay _ hs, driverTick_ackDelay _ hs]
  | ackWait => exact absurd hs hwait
  | ackRise => exact absurd hs hlet
  | standby => rw [driverTick_standby _ hs, driverTick_standby _ hs]

/-! ### The whole tick of a busy driver (R42) -/

theorem tick_of_busy (hb : s.drv.busy = true) :
    tick s = (driverTick (s.sampleValue s.cfg.busPin) (beforeDriver s)).nextCycle := by
  obtain ⟨-, -, -, hdrv, -⟩ := beforeDriver_same s
  rw [tick_eq, driverStage, if_pos (hdrv ▸ hb)]

theorem busOd_beforeDriver (s : State) : busOd (beforeDriver s) = busOd s := by
  obtain ⟨hcfg, -⟩ := beforeDriver_same s
  obtain ⟨-, -, hod, -⟩ := beforeDriver_pin s s.cfg.busPin
  rw [busOd, hcfg, hod, busOd]

theorem PositionInv.beforeDriver (h : PositionInv s) : PositionInv (beforeDriver s) := by
  obtain ⟨hcfg, -, htx, hdrv, -⟩ := beforeDriver_same s
  exact h.of_eq hcfg hdrv htx (busOd_beforeDriver s)

/-! ### The bounded waits (R210, R212) -/

section Waits
variable {x : Bool}

theorem tickStartRise_high (s : State) : tickStartRise true s = beginByte 0#9 s := rfl

theorem tickStartRise_last (h : s.drv.cnt = 1#32) : tickStartRise false s = failTransaction .busTimeout s := if_pos h

theorem tickStartRise_more (h : s.drv.cnt ≠ 1#32) : tickStartRise false s = countDown s := if_neg h

theorem tickAckWait_acknowledged (hx : x = s.cfg.ackLevel) : tickAckWait x s = goTo .ackRise s.cfg.tTimeout s :=
  if_pos hx

theorem tickAckWait_last (hx : x ≠ s.cfg.ackLevel) (h : s.drv.cnt = 1#32) :
    tickAckWait x s = failTransaction .noAcknowledge s :=
  (if_neg hx).trans (if_pos h)

theorem tickAckWait_more (hx : x ≠ s.cfg.ackLevel) (h : s.drv.cnt ≠ 1#32) : tickAckWait x s = countDown s :=
  (if_neg hx).trans (if_neg h)

theorem tickAckRise_letGo (hx : x ≠ s.cfg.ackLevel) : tickAckRise x s = slotDone s :=
  if_pos (Bool.eq_not_of_ne hx)

theorem tickAckRise_last (hx : x = s.cfg.ackLevel) (h : s.drv.cnt = 1#32) :
    tickAckRise x s = failTransaction .busTimeout s :=
  (if_neg (by simp [hx])).trans (if_pos h)

theorem tickAckRise_more (hx : x = s.cfg.ackLevel) (h : s.drv.cnt ≠ 1#32) : tickAckRise x s = countDown s :=
  (if_neg (by simp [hx])).trans (if_neg h)

/-- Where a byte of the frame is left, the end of an ack slot begins it (R221). -/
theorem slotDone_next (h : s.drv.byte.toNat < s.drv.n.toNat + 2) : slotDone s = beginByte (s.drv.byte + 1#9) s :=
  if_pos h

theorem slotDone_standby (h : ¬ s.drv.byte.toNat < s.drv.n.toNat + 2) (hst : s.cfg.tStandby ≠ 0#32) :
    slotDone s = { s with drv := { s.drv with state := .standbyPulse, step := .standby, cnt := s.cfg.tStandby } } :=
  (if_neg h).trans (if_neg hst)

theorem slotDone_complete (h : ¬ s.drv.byte.toNat < s.drv.n.toNat + 2) (hst : s.cfg.tStandby = 0#32) :
    slotDone s = completeTransaction s :=
  (if_neg h).trans (if_pos hst)

end Waits

/-- Settles O42: each wait's own three outcomes, in the state the driver ticks from. -/
theorem waitsEndAsTheSlotSays : Obligations.WaitsEndAsTheSlotSays := by
  intro s h hb
  obtain ⟨hcfg, -, -, hdrv, -, -, -, -⟩ := beforeDriver_same s
  have hrange := (h.position hb).byteRange
  rw [tick_of_busy hb, State.nextCycle_drv, State.nextCycle_rsp]
  generalize beforeDriver s = u at hcfg hdrv
  generalize s.sampleValue s.cfg.busPin = x
  rw [← hcfg]
  rw [← hdrv] at hrange ⊢
  refine ⟨fun hs => ?_, fun hs => ?_, fun hs => ?_⟩
  · rw [driverTick_startRise x hs]
    refine ⟨?_, ?_, ?_⟩
    · rintro rfl
      rw [tickStartRise_high]
      exact ⟨rfl, rfl⟩
    · rintro rfl hlast
      rw [tickStartRise_last hlast]
      exact ⟨rfl, rfl⟩
    · rintro rfl hmore
      rw [tickStartRise_more hmore]
      rfl
  · rw [driverTick_ackWait x hs]
    refine ⟨fun hx => ?_, fun hx hlast => ?_, fun hx hmore => ?_⟩
    · rw [tickAckWait_acknowledged hx]
      rfl
    · rw [tickAckWait_last hx hlast]
      exact ⟨rfl, rfl⟩
    · rw [tickAckWait_more hx hmore]
      rfl
  · rw [driverTick_ackRise x hs]
    refine ⟨fun hx hk => ?_, fun hx hk hst => ?_, fun hx hk hst => ?_, fun hx hlast => ?_, fun hx hmore => ?_⟩
    · rw [tickAckRise_letGo hx, slotDone_next hk]
      exact ⟨by simp only [beginByte]; bv_omega, rfl⟩
    · rw [tickAckRise_letGo hx, slotDone_standby (by omega) hst]
    · rw [tickAckRise_letGo hx, slotDone_complete (by omega) hst]
      exact ⟨rfl, rfl⟩
    · rw [tickAckRise_last hx hlast]
      exact ⟨rfl, rfl⟩
    · rw [tickAckRise_more hx hmore]
      rfl

/-! ### The ends of a transaction (R211, R218, R223) -/

/-- A tick that ends the transaction does so in one of the listed ways (R211, R218). -/
theorem tick_ends (hb : s.drv.busy = true) (hend : (tick s).drv.busy = false) :
    ∃ st e, EndsAs st e ∧ tick s = (endTransaction st e (beforeDriver s)).nextCycle := by
  obtain ⟨-, -, -, hdrv, -⟩ := beforeDriver_same s
  rw [tick_of_busy hb] at hend ⊢
  rcases driverTick_ends_or_goesOn (s.sampleValue s.cfg.busPin) (beforeDriver s) with ⟨st, e, he, heq⟩ | g
  · exact ⟨st, e, he, by rw [heq]⟩
  · have hbusy := g.busy.trans (hdrv ▸ hb)
    exact absurd (hbusy.symm.trans hend) (by decide)

theorem pin_endTransaction_bus (st : DrvState) (e : Status) (hbus : (s.pin s.cfg.busPin).od ≠ none) :
    (endTransaction st e s).pin s.cfg.busPin = { s.pin s.cfg.busPin with od := some .released, oe := false } :=
  s.pin_setOdAt_same .released (s.pin_lt_of_od hbus)

/-- Settles O43: whichever way the tick ends the transaction, it releases the line and answers. -/
theorem everyExitReleasesTheLine : Obligations.EveryExitReleasesTheLine := by
  intro s h hb hend
  obtain ⟨st, e, he, htick⟩ := tick_ends hb hend
  obtain ⟨hcfg, -⟩ := beforeDriver_same s
  have hbus : ((beforeDriver s).pin (beforeDriver s).cfg.busPin).od ≠ none := fun hnone =>
    (h.driver.busPin hb).1 ((busOd_beforeDriver s).symm.trans hnone)
  have hpin : (tick s).pin s.cfg.busPin =
      { (beforeDriver s).pin s.cfg.busPin with od := some .released, oe := false } := by
    rw [htick, State.pin_nextCycle, ← hcfg, pin_endTransaction_bus st e hbus]
  refine ⟨by rw [busOd, tick_cfg, hpin], by rw [hpin], by rw [htick]; rfl, ?_, tick_padreg s, fun p => ?_⟩
  · rw [htick]
    rcases he with ⟨rfl, rfl⟩ | ⟨rfl, rfl | rfl⟩
    · exact .inl ⟨rfl, rfl, rfl⟩
    · exact .inr (.inl ⟨rfl, rfl, rfl⟩)
    · exact .inr (.inr ⟨rfl, rfl, rfl⟩)
  · obtain ⟨hovr, howner, hout, -⟩ := tick_pin s p
    exact ⟨hovr, howner, hout⟩

/-! ### The transitions of `drv.state` (R220) -/

theorem phaseOf_crcByte {n k : Nat} (h : n + 1 < k) : phaseOf n k = .crcPhase := by
  simp [phaseOf, show k ≠ 0 by omega, show k ≠ 1 by omega, h]

/-- From each of the four phases with an ack slot a slot that fails leads to `Error`. -/
theorem ListedTransition.of_slot_fails {n k : Nat} (hs : s.drv.state = phaseOf n k) (ht : t.drv.state = .error)
    (hfail : AckSlotFails s t.drv.err) : ListedTransition s t := by
  unfold phaseOf at hs
  split_ifs at hs <;> simpa only [ListedTransition, hs, ht] using hfail

/-- From one byte of the frame to the next the phase stays, or moves on as listed. -/
theorem ListedTransition.of_next_byte {k : Nat} (hs : s.drv.state = phaseOf s.drv.n.toNat k)
    (ht : t.drv.state = phaseOf s.drv.n.toNat (k + 1)) (hbyte : s.drv.byte.toNat = k) (hlt : k < s.drv.n.toNat + 2)
    (hok : AckSlotOk s) (hne : t.drv.state ≠ s.drv.state) : ListedTransition s t := by
  match k with
  | 0 =>
    have hs : s.drv.state = .addressPhase := hs
    have ht : t.drv.state = .commandPhase := ht
    simpa only [ListedTransition, hs, ht] using hok
  | 1 =>
    have hs : s.drv.state = .commandPhase := hs
    by_cases hn : s.drv.n.toNat = 0
    · have ht : t.drv.state = .crcPhase := ht.trans (phaseOf_crcByte (by omega))
      simpa only [ListedTransition, hs, ht] using ⟨hok, hn⟩
    · have ht : t.drv.state = .dataPhase := ht.trans (by simp [phaseOf]; omega)
      simpa only [ListedTransition, hs, ht] using ⟨hok, Nat.pos_of_ne_zero hn⟩
  | k + 2 =>
    have hs : s.drv.state = .dataPhase := hs.trans (by simp [phaseOf]; omega)
    by_cases hlast : k + 1 = s.drv.n.toNat
    · have ht : t.drv.state = .crcPhase := ht.trans (phaseOf_crcByte (by omega))
      simpa only [ListedTransition, hs, ht] using ⟨hok, by omega⟩
    · have ht : t.drv.state = .dataPhase := ht.trans (by simp [phaseOf]; omega)
      exact absurd (ht.trans hs.symm) hne

theorem tickBitSecond_state (s : State) : (tickBitSecond s).drv.state = s.drv.state := by
  rw [tickBitSecond_eq, byteOut_eq]
  split_ifs <;> rfl

/-- Past the last byte of the frame the phase is `CrcPhase`, and its slot ends the frame. -/
theorem ListedTransition.of_slotDone {u : State} (hcfg : u.cfg = s.cfg) (hdrv : u.drv = s.drv)
    (hs : s.drv.state = phaseOf s.drv.n.toNat s.drv.byte.toNat) (hrange : s.drv.byte.toNat ≤ s.drv.n.toNat + 2)
    (hok : AckSlotOk s) (hdrv' : t.drv = (slotDone u).drv) (hrsp : t.rsp = (slotDone u).rsp)
    (hne : t.drv.state ≠ s.drv.state) : ListedTransition s t := by
  by_cases hlt : u.drv.byte.toNat < u.drv.n.toNat + 2
  · rw [slotDone_next hlt] at hdrv'
    rw [hdrv] at hlt
    have hsucc : (s.drv.byte + 1#9).toNat = s.drv.byte.toNat + 1 := by bv_omega
    refine .of_next_byte hs ?_ rfl hlt hok hne
    rw [hdrv', ← hsucc, ← hdrv]
    rfl
  · have hcrc : s.drv.state = .crcPhase := hs.trans (phaseOf_crcByte (by rw [hdrv] at hlt; omega))
    by_cases hst : u.cfg.tStandby = 0#32
    · rw [slotDone_complete hlt hst] at hdrv' hrsp
      rw [hcfg] at hst
      have hidle : t.drv.state = .idle := congrArg Driver.state hdrv'
      simpa only [ListedTransition, hcrc, hidle] using ⟨hok, hst, hrsp⟩
    · rw [slotDone_standby hlt hst] at hdrv'
      rw [hcfg] at hst
      have hstandby : t.drv.state = .standbyPulse := congrArg Driver.state hdrv'
      simpa only [ListedTransition, hcrc, hstandby] using ⟨hok, hst⟩

/-- The rows of R220 that a clock cycle takes. -/
theorem tick_listedTransition (h : Inv s) (hb : s.drv.busy = true) (hne : (tick s).drv.state ≠ s.drv.state) :
    ListedTransition s (tick s) := by
  obtain ⟨hcfg, -, -, hdrv, -⟩ := beforeDriver_same s
  have hposition := h.position hb
  have hpos := hposition.position
  have hnext : ∀ {v : State}, driverTick (s.sampleValue s.cfg.busPin) (beforeDriver s) = v →
      (tick s).drv = v.drv ∧ (tick s).rsp = v.rsp := by
    rintro v rfl
    rw [tick_of_busy hb]
    exact ⟨rfl, rfl⟩
  have hsame : ∀ {v : State}, driverTick (s.sampleValue s.cfg.busPin) (beforeDriver s) = v →
      v.drv.state ≠ (beforeDriver s).drv.state := fun e => by
    rwa [← (hnext e).1, hdrv]
  have hcases := driverTick_cases (s.sampleValue s.cfg.busPin) (beforeDriver s)
  simp only [hdrv, hcfg] at hcases
  rcases hcases with ⟨e, -⟩ | ⟨-, -, e⟩ | ⟨hs, hx, e⟩ | ⟨hs, hx, hcnt, e⟩ | ⟨-, -, e⟩ | ⟨-, -, e⟩ | ⟨-, -, e⟩ |
    ⟨-, -, e⟩ | ⟨hs, hx, hcnt, e⟩ | ⟨hs, hx, e⟩ | ⟨hs, hx, hcnt, e⟩ | ⟨hs, hcnt, e⟩
  · exact (hsame e rfl).elim
  · exact (hsame e rfl).elim
  · rw [hs] at hpos
    obtain ⟨hstate, -⟩ := hpos
    have hstate' : (tick s).drv.state = .addressPhase := congrArg Driver.state (hnext e).1
    simpa only [ListedTransition, hstate, hstate'] using ⟨hs, hx⟩
  · rw [hs] at hpos
    obtain ⟨hstate, -⟩ := hpos
    have hstate' : (tick s).drv.state = .error := congrArg Driver.state (hnext e).1
    simpa only [ListedTransition, hstate, hstate'] using ⟨hs, hx, hcnt, congrArg Driver.err (hnext e).1⟩
  · exact (hsame e rfl).elim
  · exact (hsame e (tickBitSecond_state _)).elim
  · exact (hsame e rfl).elim
  · exact (hsame e rfl).elim
  · rw [hs] at hpos
    obtain ⟨hstate, -⟩ := hpos
    exact .of_slot_fails hstate (congrArg Driver.state (hnext e).1)
      ⟨hcnt, .inl ⟨hs, hx, congrArg Driver.err (hnext e).1⟩⟩
  · rw [hs] at hpos
    obtain ⟨hstate, -⟩ := hpos
    obtain ⟨hdrv', hrsp⟩ := hnext e
    exact .of_slotDone hcfg hdrv hstate hposition.byteRange ⟨hs, by simp [hx]⟩ hdrv' hrsp hne
  · rw [hs] at hpos
    obtain ⟨hstate, -⟩ := hpos
    exact .of_slot_fails hstate (congrArg Driver.state (hnext e).1)
      ⟨hcnt, .inr ⟨hs, by simpa using hx, congrArg Driver.err (hnext e).1⟩⟩
  · rw [hs] at hpos
    obtain ⟨hstate, -⟩ := hpos
    obtain ⟨hdrv', hrsp⟩ := hnext e
    have hstate' : (tick s).drv.state = .idle := congrArg Driver.state hdrv'
    simpa only [ListedTransition, hstate, hstate'] using ⟨hs, hcnt, hrsp⟩

/-- Of the operations only a `transact` that passes its checks writes a register of the driver (R201 to R204). -/
theorem exec_drv_or_starts {i : Instr} (ht : exec i s = .next t) :
    t.drv = s.drv ∨ ∃ sel cmd n, i = .transact sel cmd n ∧ transactRefused s n = false ∧
      ((acquireError s s.cfg.busGrp s.cfg.busPin = none ∧ t = startTransaction sel cmd n (acquirePin s s.cfg.busPin)) ∨
       (needsAcquire s = false ∧ t = startTransaction sel cmd n s)) := by
  cases i with
  | getPullUp g i => obtain ⟨-, rfl⟩ | ⟨-, rfl⟩ := execGetPullUp_cases ht <;> exact .inl rfl
  | setPullUp g i enabled =>
    obtain ⟨-, rfl⟩ | ⟨-, -, rfl⟩ | ⟨-, -, rfl⟩ := execSetPullUp_cases ht <;> exact .inl rfl
  | getPullDown g i => obtain ⟨-, rfl⟩ | ⟨-, rfl⟩ := execGetPullDown_cases ht <;> exact .inl rfl
  | setPullDown g i enabled =>
    obtain ⟨-, rfl⟩ | ⟨-, -, rfl⟩ | ⟨-, -, rfl⟩ := execSetPullDown_cases ht <;> exact .inl rfl
  | acquire g p => obtain ⟨e, -, rfl⟩ | ⟨-, rfl⟩ := execAcquire_cases ht <;> exact .inl rfl
  | release p => obtain ⟨-, rfl⟩ | ⟨-, rfl⟩ := execRelease_cases ht <;> exact .inl rfl
  | driveLow p => obtain ⟨-, rfl⟩ | ⟨-, rfl⟩ := execDriveLow_cases ht <;> exact .inl rfl
  | read p => obtain ⟨-, rfl⟩ | ⟨-, -, rfl⟩ := execRead_cases ht <;> exact .inl (by simp)
  | configure p half => obtain ⟨-, rfl⟩ | ⟨-, -, -, rfl⟩ := execConfigure_cases ht <;> exact .inl rfl
  | start k => obtain ⟨-, rfl⟩ | ⟨-, -, -, ⟨-, rfl⟩ | ⟨-, rfl⟩⟩ := execStart_cases ht <;> exact .inl rfl
  | stop k => obtain ⟨-, rfl⟩ | ⟨-, -, rfl⟩ | ⟨-, -, rfl⟩ := execStop_cases ht <;> exact .inl rfl
  | transact sel cmd n =>
    obtain ⟨-, rfl⟩ | ⟨hreq, -, ⟨e, -, rfl⟩ | ⟨hfree, rfl⟩⟩ | ⟨hreq, hacq, rfl⟩ := execTransact_cases ht
    · exact .inl rfl
    · exact .inl rfl
    · exact .inr ⟨sel, cmd, n, rfl, hreq, .inl ⟨hfree, rfl⟩⟩
    · exact .inr ⟨sel, cmd, n, rfl, hreq, .inr ⟨hacq, rfl⟩⟩
  | wrbuf k byte => obtain ⟨-, rfl⟩ | ⟨-, rfl⟩ := execWrbuf_cases ht <;> exact .inl rfl

/-- A driver that is not busy is in `Idle` or in `Error` (R33). -/
theorem Inv.idle_or_error (h : Inv s) (hb : s.drv.busy = false) : s.drv.state = .idle ∨ s.drv.state = .error := by
  have hout := h.driver.busy.symm.trans hb
  cases hs : s.drv.state <;> simp [hs, DrvState.inTransaction] at hout ⊢

/-- The row of R220 that a `transact` takes, from `Idle` and from `Error`. -/
theorem ListedTransition.of_start (h : Inv s) (hb : s.drv.busy = false) (hpass : TransactPasses s)
    (ht : t.drv.state = .startCondition) (herr : t.drv.err = .ok) (hline : Holds t .drivenLow) :
    ListedTransition s t := by
  rcases h.idle_or_error hb with hs | hs <;> simpa only [ListedTransition, hs, ht] using ⟨hpass, herr, hline⟩

/-- What an accepted `transact` that starts a transaction has passed, and what it leaves (R202 to R204). -/
theorem exec_listedTransition (h : Inv s) {w : Word} {i : Instr} (hm : s.move = .accept w) (hi : decode w = some i)
    (ht : exec i s.taken = .next t) (hne : t.drv.state ≠ s.drv.state) : ListedTransition s t := by
  obtain ⟨-, hb, -⟩ := State.move_accept_iff.1 hm
  rcases exec_drv_or_starts ht with hdrv | ⟨sel, cmd, n, rfl, hreq, hstart⟩
  · exact absurd (congrArg Driver.state hdrv) hne
  have hpassed := transactRefused_false_iff.1 hreq
  have hchecked : n ≤ s.cfg.maxData ∧ ∀ k < n, Memory.read s.txbuf k ≠ none :=
    ⟨hpassed.1, fun k hk => Option.isSome_iff_ne_none.1 (hpassed.2 k hk)⟩
  rcases hstart with ⟨hfree, rfl⟩ | ⟨hacq, rfl⟩
  · obtain ⟨hsup, howner⟩ := acquireError_none_iff.1 hfree
    obtain ⟨hgrp, hp⟩ := supported_iff.1 hsup
    have hbus : ((acquirePin s.taken s.cfg.busPin).pin s.cfg.busPin).od ≠ none := by
      rw [pin_acquirePin_same s.taken (h.shape.pins ▸ hp)]
      exact nofun
    exact .of_start h hb
      ⟨w, sel, cmd, n, hm, hi, hchecked.1, hchecked.2, hgrp, hp, fun e => nomatch howner.symm.trans e⟩
      rfl rfl (holds_of_pins_eq_setOd (acquirePin s.taken s.cfg.busPin) rfl hbus rfl)
  · obtain ⟨hsup, hbus⟩ := needsAcquire_false_iff.1 hacq
    obtain ⟨hgrp, hp⟩ := supported_iff.1 hsup
    have howner := (h.pins _ hp).owner_of_acquired hbus
    exact .of_start h hb
      ⟨w, sel, cmd, n, hm, hi, hchecked.1, hchecked.2, hgrp, hp, fun e => nomatch howner.symm.trans e⟩
      rfl rfl (holds_of_pins_eq_setOd s.taken rfl hbus rfl)

/-- Settles O44: a clock cycle takes a row of the driver's, an accepted request the row of `transact`. -/
theorem onlyListedTransitionsOccur : Obligations.OnlyListedTransitionsOccur := by
  intro s t h hrst ht hne
  obtain ⟨-, ⟨hreset, -⟩ | ⟨-, rfl⟩ | ⟨w, i, hm, hi, he⟩ | ⟨w, -, -, rfl⟩⟩ := step_cases ht
  · exact absurd (hreset.symm.trans hrst) (by decide)
  · cases hb : s.drv.busy with
    | false => exact absurd (congrArg Driver.state (tick_of_idle hb).1) hne
    | true => exact tick_listedTransition h hb hne
  · exact exec_listedTransition h hm hi he hne
  · exact absurd rfl hne

end Sys2Proof.Machine
end

section
/-! SUPPORT. The steps of a transaction that count their cycles (spec/43_bus_driver.md R206, R208, R212): the start
pulse, O36; the cells of a byte, O37; and what they decode to (R225), O38. -/

namespace Sys2Proof.Machine

variable {s : State} {d d' : Driver}

/-! ### Several ticks -/

theorem ticks_add (k m : Nat) (s : State) : ticks (k + m) s = ticks m (ticks k s) := by
  induction k generalizing s with
  | zero => rw [Nat.zero_add]; rfl
  | succ k ih => rw [Nat.succ_add]; exact ih (tick s)

theorem ticks_succ (k : Nat) (s : State) : ticks (k + 1) s = tick (ticks k s) := ticks_add k 1 s

@[simp] theorem ticks_cfg (k : Nat) (s : State) : (ticks k s).cfg = s.cfg := by
  induction k with
  | zero => rfl
  | succ k ih => rw [ticks_succ, tick_cfg, ih]

theorem ticks_inv (h : Inv s) (k : Nat) : Inv (ticks k s) := by
  induction k with
  | zero => exact h
  | succ k ih => rw [ticks_succ]; exact tick_inv ih

/-- After `k` ticks of `s` the driver's registers are `d`, and `TXBUF` is as before. -/
structure After (k : Nat) (s : State) (d : Driver) : Prop where
  drv : (ticks k s).drv = d
  txbuf : (ticks k s).txbuf = s.txbuf

theorem After.zero (s : State) : After 0 s s.drv := ⟨rfl, rfl⟩

theorem After.trans {k m : Nat} (h : After k s d) (h' : After m (ticks k s) d') : After (k + m) s d' := by
  obtain ⟨hdrv, htx⟩ := h'
  constructor <;> rw [ticks_add]
  · exact hdrv
  · exact htx.trans h.txbuf

/-! ### Counting down (R206) -/

/-- The steps that last the cycles `drv.cnt` counts; the other three wait for the line. -/
def DrvStep.counts : DrvStep → Bool
  | .startLow | .bitFirst | .bitSecond | .ackDelay | .standby => true
  | .startRise | .ackWait | .ackRise => false

theorem driverTick_counts (hs : s.drv.step.counts = true) (h0 : s.drv.cnt ≠ 0#32) (h1 : s.drv.cnt ≠ 1#32)
    (x : Bool) : driverTick x s = countDown s := by
  cases hstep : s.drv.step <;> rw [hstep] at hs
  case startLow => rw [driverTick_startLow x hstep, tickStartLow, if_neg h1]
  case bitFirst => rw [driverTick_bitFirst x hstep, tickBitFirst, if_neg h1]
  case bitSecond => rw [driverTick_bitSecond x hstep, tickBitSecond, if_pos (by bv_omega)]
  case ackDelay => rw [driverTick_ackDelay x hstep, tickAckDelay, if_neg h1]
  case standby => rw [driverTick_standby x hstep, tickStandby, if_neg h1]
  case startRise | ackWait | ackRise => cases hs

/-- One tick of a busy driver, where `DriverTick` gives it the registers `d` and the transaction goes on. -/
theorem After.of_driverTick (hb : s.drv.busy = true)
    (hd : ∀ x u, u.cfg = s.cfg → u.drv = s.drv → u.txbuf = s.txbuf → (driverTick x u).drv = d)
    (hbusy : d.busy = true) : After 1 s d := by
  obtain ⟨hcfg, -, htx, hdrv, -⟩ := beforeDriver_same s
  have heq : (tick s).drv = d := by rw [tick_of_busy hb]; exact hd _ _ hcfg hdrv htx
  exact ⟨heq, (tick_of_goesOn (heq ▸ hbusy)).1⟩

/-- While a counting step has cycles left, its count is all that changes. -/
theorem After.counting (hb : s.drv.busy = true) (hs : s.drv.step.counts = true) {k : Nat}
    (hk : k < s.drv.cnt.toNat) : After k s { s.drv with cnt := s.drv.cnt - BitVec.ofNat 32 k } := by
  induction k with
  | zero => simpa using After.zero s
  | succ k ih =>
    have h := ih (by omega)
    refine h.trans (.of_driverTick (by rw [h.drv]; exact hb) (fun x u hcfg hdrv htx => ?_) hb)
    rw [h.drv] at hdrv
    have h0 : u.drv.cnt ≠ 0#32 := by rw [hdrv]; bv_omega
    have h1 : u.drv.cnt ≠ 1#32 := by rw [hdrv]; bv_omega
    have hsub : s.drv.cnt - BitVec.ofNat 32 (k + 1) = s.drv.cnt - BitVec.ofNat 32 k - 1#32 := by bv_omega
    rw [driverTick_counts (hdrv ▸ hs) h0 h1, countDown, hdrv, hsub]

/-- A counting step takes exactly its count of cycles; in the last of them `DriverTick` moves on to `d`. -/
theorem After.count (hb : s.drv.busy = true) (hs : s.drv.step.counts = true) (h0 : s.drv.cnt ≠ 0#32)
    (hd : ∀ x u, u.cfg = s.cfg → u.drv = { s.drv with cnt := 1#32 } → u.txbuf = s.txbuf → (driverTick x u).drv = d)
    (hbusy : d.busy = true) : After s.drv.cnt.toNat s d := by
  have hlast := After.counting hb hs (k := s.drv.cnt.toNat - 1) (by bv_omega)
  have hone : s.drv.cnt - BitVec.ofNat 32 (s.drv.cnt.toNat - 1) = 1#32 := by bv_omega
  rw [hone] at hlast
  have hsum : s.drv.cnt.toNat = s.drv.cnt.toNat - 1 + 1 := by bv_omega
  rw [hsum]
  refine hlast.trans (.of_driverTick (by rw [hlast.drv]; exact hb) (fun x u hcfg hdrv htx => ?_) hbusy)
  exact hd x u (by rw [hcfg, ticks_cfg]) (hdrv.trans hlast.drv) (htx.trans hlast.txbuf)

/-! ### The start pulse (R212) -/

/-- A pin held `DrivenLow` sinks its line (R37, R66). -/
theorem Inv.line_of_drivenLow (h : Inv s) {p : Nat} (hod : (s.pin p).od = some .drivenLow) : s.line p = .low := by
  have hp := h.shape.lt_of_acquired (p := p) (by rw [hod]; exact nofun)
  obtain ⟨-, hovr, hoe⟩ := (h.pins p hp).drivenLow.1 hod
  exact s.line_of_override hoe hovr

section StartPulse
variable {sel cmd : Byte}

theorem JustStarted.counts (hj : JustStarted s sel cmd) : s.drv.step.counts = true := by rw [hj.step]; rfl

theorem JustStarted.in_pulse (hj : JustStarted s sel cmd) {k : Nat} (hk : k < s.cfg.tStart.toNat) :
    (ticks k s).drv.busy = true ∧ (ticks k s).drv.step = .startLow := by
  obtain ⟨hdrv, -⟩ := After.counting hj.busy hj.counts (by rwa [hj.cnt])
  rw [hdrv]
  exact ⟨hj.busy, hj.step⟩

/-- The pulse is a counting step, entered with `T_START` cycles. -/
theorem JustStarted.after_pulse (hj : JustStarted s sel cmd) (h : Inv s) :
    After s.cfg.tStart.toNat s { s.drv with step := .startRise, cnt := s.cfg.tTimeout } := by
  obtain ⟨-, -, hstart, -⟩ := legal_bus h.shape.legal
  rw [← hj.cnt]
  refine .count hj.busy hj.counts (by rwa [hj.cnt]) (fun x u hcfg hdrv _ => ?_) hj.busy
  rw [driverTick_startLow x (by rw [hdrv]; exact hj.step), tickStartLow, if_pos (by rw [hdrv]), goTo,
    State.setOd_drv, hdrv, hcfg]

end StartPulse

/-- Settles O36: in each cycle the invariant says what the step holds on the line. -/
theorem startPulseIsExact : Obligations.StartPulseIsExact := by
  intro s sel cmd h hj
  refine ⟨fun k hk => ?_, ?_⟩
  · obtain ⟨hbusy, hstep⟩ := hj.in_pulse hk
    have hpos := ((ticks_inv h k).position hbusy).position
    rw [hstep] at hpos
    obtain ⟨hstate, hline, -⟩ := hpos
    have hlow := (ticks_inv h k).line_of_drivenLow hline
    rw [ticks_cfg] at hlow
    exact ⟨hline, hlow, hstate⟩
  · obtain ⟨hdrv, -⟩ := hj.after_pulse h
    have hpos := ((ticks_inv h s.cfg.tStart.toNat).position (by rw [hdrv]; exact hj.busy)).position
    rw [hdrv] at hpos ⊢
    obtain ⟨-, hline, -⟩ := hpos
    exact ⟨hline, rfl, rfl⟩

/-! ### The cells of a byte (R208) -/

/-- Most significant bit first (R102, R208). -/
theorem cellOf_eq {c : Cfg} (hl : Cfg.legal c = true) (b : Byte) (j : Nat) :
    cellOf c b j = cellCode c (b.getLsbD (7 - j)) := by
  obtain ⟨-, -, -, -, -, horder, -⟩ := legal_bus hl
  rw [cellOf, txBit, horder]

/-- The driver is in the first cycle of a half of a cell. -/
structure HalfBegins (s : State) (half : DrvStep) : Prop where
  inv : Inv s
  busy : s.drv.busy = true
  step : s.drv.step = half
  cnt : s.drv.cnt = s.cfg.tHalf

theorem HalfBegins.tHalf_ne_zero {half : DrvStep} (h : HalfBegins s half) : s.cfg.tHalf ≠ 0#32 := by
  obtain ⟨-, -, -, hhalf, -⟩ := legal_bus h.inv.shape.legal
  exact hhalf

theorem HalfBegins.of_after {half half' : DrvStep} (h : HalfBegins s half) {k : Nat} (ha : After k s d)
    (hbusy : d.busy = true) (hstep : d.step = half') (hcnt : d.cnt = s.cfg.tHalf) : HalfBegins (ticks k s) half' :=
  ⟨ticks_inv h.inv k, by rw [ha.drv, hbusy], by rw [ha.drv, hstep], by rw [ha.drv, hcnt, ticks_cfg]⟩

/-- The first half lasts `T_HALF` cycles, and the second half follows. -/
theorem HalfBegins.first_half (h : HalfBegins s .bitFirst) :
    After s.cfg.tHalf.toNat s { s.drv with step := .bitSecond } := by
  rw [← h.cnt]
  refine .count h.busy (by rw [h.step]; rfl) (h.cnt ▸ h.tHalf_ne_zero) (fun x u hcfg hdrv _ => ?_) h.busy
  rw [driverTick_bitFirst x (by rw [hdrv]; exact h.step), tickBitFirst, if_pos (by rw [hdrv]), goTo,
    State.setOd_drv, hdrv, hcfg, ← h.cnt]

/-- The second half lasts `T_HALF` cycles, and the next cell follows, if the byte has one. -/
theorem HalfBegins.second_half (h : HalfBegins s .bitSecond) (hbit : s.drv.bit < 7#4) :
    After s.cfg.tHalf.toNat s { s.drv with step := .bitFirst, bit := s.drv.bit + 1#4 } := by
  rw [← h.cnt]
  refine .count h.busy (by rw [h.step]; rfl) (h.cnt ▸ h.tHalf_ne_zero) (fun x u hcfg hdrv _ => ?_) h.busy
  rw [driverTick_bitSecond x (by rw [hdrv]; exact h.step), tickBitSecond_eq,
    if_neg (by rw [hdrv]; exact BitVec.lt_irrefl _), if_pos (by rwa [hdrv]), nextCell, hdrv, hcfg, ← h.cnt]

theorem byteOut_bit (s : State) : (byteOut s).drv.bit = 8#4 := by
  rw [byteOut_eq]
  split <;> rfl

theorem byteOut_step (s : State) :
    (byteOut s).drv.step = if s.cfg.tAckDelay = 0#32 then .ackWait else .ackDelay := by
  rw [byteOut_eq]
  split <;> rfl

/-- What `byteOut` writes into the driver's registers depends on them, on `TXBUF` and on the configuration. -/
theorem byteOut_drv_of_eq {t : State} (hcfg : t.cfg = s.cfg) (hdrv : t.drv = s.drv) (htx : t.txbuf = s.txbuf) :
    (byteOut t).drv = (byteOut s).drv := by
  simp only [byteOut_eq, byteSent, goTo, frameByte, hcfg, hdrv, htx]
  split_ifs <;> rfl

/-- After the second half of the last cell the byte is out. -/
theorem HalfBegins.byte_out (h : HalfBegins s .bitSecond) (hbit : s.drv.bit = 7#4) :
    After s.cfg.tHalf.toNat s (byteOut { s with drv := { s.drv with cnt := 1#32 } }).drv := by
  rw [← h.cnt]
  refine .count h.busy (by rw [h.step]; rfl) (h.cnt ▸ h.tHalf_ne_zero) (fun x u hcfg hdrv htx => ?_)
    ((byteOut_goesOn _).busy.trans h.busy)
  rw [driverTick_bitSecond x (by rw [hdrv]; exact h.step), tickBitSecond_eq,
    if_neg (by rw [hdrv]; exact BitVec.lt_irrefl _), if_neg (by rw [hdrv, hbit]; decide)]
  exact byteOut_drv_of_eq hcfg hdrv htx

/-- A cell lasts `2 * T_HALF` cycles, and the next one follows, if the byte has one. -/
theorem HalfBegins.cell (h : HalfBegins s .bitFirst) (hbit : s.drv.bit < 7#4) :
    After (2 * s.cfg.tHalf.toNat) s { s.drv with bit := s.drv.bit + 1#4 } := by
  have hfirst := h.first_half
  have hsecond := (h.of_after hfirst h.busy rfl h.cnt).second_half (by rw [hfirst.drv]; exact hbit)
  rw [ticks_cfg, hfirst.drv] at hsecond
  have hcell := hfirst.trans hsecond
  rwa [← two_mul, ← h.step] at hcell

/-- Cell `j` begins `2 * j * T_HALF` cycles after cell 0. -/
theorem HalfBegins.cells (h : HalfBegins s .bitFirst) (hbit : s.drv.bit = 0#4) {j : Nat} (hj : j < 8) :
    After (2 * j * s.cfg.tHalf.toNat) s { s.drv with bit := BitVec.ofNat 4 j } := by
  induction j with
  | zero => simpa [← hbit] using After.zero s
  | succ j ih =>
    have hcells := ih (by omega)
    have hlt : BitVec.ofNat 4 j < 7#4 := by bv_omega
    have hnext := (h.of_after hcells h.busy h.step h.cnt).cell (by rw [hcells.drv]; exact hlt)
    rw [ticks_cfg, hcells.drv] at hnext
    have hsum : 2 * (j + 1) * s.cfg.tHalf.toNat = 2 * j * s.cfg.tHalf.toNat + 2 * s.cfg.tHalf.toNat := by ring
    rw [hsum, BitVec.ofNat_add]
    exact hcells.trans hnext

/-- The second half of cell `j` begins `T_HALF` cycles after the first. -/
theorem HalfBegins.second_halves (h : HalfBegins s .bitFirst) (hbit : s.drv.bit = 0#4) {j : Nat} (hj : j < 8) :
    After ((2 * j + 1) * s.cfg.tHalf.toNat) s { s.drv with bit := BitVec.ofNat 4 j, step := .bitSecond } := by
  have hcells := h.cells hbit hj
  have hfirst := (h.of_after hcells h.busy h.step h.cnt).first_half
  rw [ticks_cfg, hcells.drv] at hfirst
  rw [Nat.add_mul, Nat.one_mul]
  exact hcells.trans hfirst

/-- While a byte is sent the bytes of the frame stay the same. -/
theorem After.frameByte_eq {k : Nat} {half : DrvStep} {b : BitVec 4} {c : BitVec 32}
    (ha : After k s { s.drv with step := half, bit := b, cnt := c }) (i : Nat) :
    frameByte (ticks k s) i = frameByte s i := by
  simp only [frameByte, ha.drv, ha.txbuf, ticks_cfg]

/-- What is held in a cycle of the first, or of the second, half of cell `b` (R208, R221). -/
theorem After.busOd_cell (h : Inv s) (hb : s.drv.busy = true) {k : Nat} {half : DrvStep} {b : BitVec 4} {c : BitVec 32}
    (ha : After k s { s.drv with step := half, bit := b, cnt := c }) :
    (half = .bitFirst → busOd (ticks k s) = some (cellOf s.cfg (frameByte s s.drv.byte.toNat) b.toNat).1) ∧
    (half = .bitSecond → busOd (ticks k s) = some (cellOf s.cfg (frameByte s s.drv.byte.toNat) b.toNat).2) := by
  have hpos := ((ticks_inv h k).position (by rw [ha.drv]; exact hb)).position
  constructor <;> rintro rfl <;> rw [ha.drv] at hpos
  all_goals
    obtain ⟨-, -, hline, -⟩ := hpos
    simpa only [Holds, curCell, ha.frameByte_eq, ha.drv, ticks_cfg, busOd] using hline

/-- From the first cycle of a half on, its count of cycles (R206). -/
theorem HalfBegins.counting {half : DrvStep} (h : HalfBegins s half) (hhalf : half.counts = true) {k : Nat}
    (hk : k < s.cfg.tHalf.toNat) : After k s { s.drv with cnt := s.drv.cnt - BitVec.ofNat 32 k } :=
  .counting h.busy (by rw [h.step, hhalf]) (by rwa [h.cnt])

/-- What the driver holds in cycle `k` of each half of cell `j` (R208). -/
theorem HalfBegins.busOd_cells (h : HalfBegins s .bitFirst) (hbit : s.drv.bit = 0#4) {j k : Nat} (hj : j < 8)
    (hk : k < s.cfg.tHalf.toNat) :
    busOd (ticks (2 * j * s.cfg.tHalf.toNat + k) s) =
      some (cellCode s.cfg ((frameByte s s.drv.byte.toNat).getLsbD (7 - j))).1 ∧
    busOd (ticks ((2 * j + 1) * s.cfg.tHalf.toNat + k) s) =
      some (cellCode s.cfg ((frameByte s s.drv.byte.toNat).getLsbD (7 - j))).2 := by
  have hj4 : (BitVec.ofNat 4 j).toNat = j := by bv_omega
  rw [← cellOf_eq h.inv.shape.legal]
  constructor
  · have ha := h.cells hbit hj
    have hc := (h.of_after ha h.busy h.step h.cnt).counting rfl (by rwa [ticks_cfg])
    rw [ha.drv] at hc
    have hod := ((ha.trans hc).busOd_cell h.inv h.busy).1 h.step
    rwa [hj4] at hod
  · have ha := h.second_halves hbit hj
    have hc := (h.of_after ha h.busy rfl h.cnt).counting rfl (by rwa [ticks_cfg])
    rw [ha.drv] at hc
    have hod := ((ha.trans hc).busOd_cell h.inv h.busy).2 rfl
    rwa [hj4] at hod

/-- After the sixteen halves the ack slot begins, with the line released (R208, R210). -/
theorem HalfBegins.slot_begins (h : HalfBegins s .bitFirst) (hbit : s.drv.bit = 0#4) :
    busOd (ticks (16 * s.cfg.tHalf.toNat) s) = some .released ∧
    (ticks (16 * s.cfg.tHalf.toNat) s).drv.bit = 8#4 ∧
    (ticks (16 * s.cfg.tHalf.toNat) s).drv.step = if s.cfg.tAckDelay = 0#32 then .ackWait else .ackDelay := by
  have ha := h.second_halves hbit (j := 7) (by decide)
  have hout := (h.of_after ha h.busy rfl h.cnt).byte_out (by rw [ha.drv])
  have hall := ha.trans hout
  have hsum : (2 * 7 + 1) * s.cfg.tHalf.toNat + s.cfg.tHalf.toNat = 16 * s.cfg.tHalf.toNat := by ring
  rw [ticks_cfg, hsum] at hall
  have hstep := congrArg Driver.step hall.drv
  rw [byteOut_step] at hstep
  have hbusy : (ticks (16 * s.cfg.tHalf.toNat) s).drv.busy = true := by
    rw [hall.drv, (byteOut_goesOn _).busy, ha.drv]
    exact h.busy
  have hpos := ((ticks_inv h.inv _).position hbusy).position
  refine ⟨?_, by rw [hall.drv, byteOut_bit], hstep⟩
  rw [hstep] at hpos
  split at hpos <;> exact hpos.2.2.1

/-- Settles O37: eight cells of two halves, each a counting step. -/
theorem sendByteHoldsItsCells : Obligations.SendByteHoldsItsCells := by
  intro s h hb hs hbit hcnt
  have hbegin : HalfBegins s .bitFirst := ⟨h, hb, hs, hcnt⟩
  exact ⟨fun j hj k hk => hbegin.busOd_cells hbit hj hk, hbegin.slot_begins hbit⟩

/-! ### Reading the cells back (R225) -/

/-- Distinct cell codes are read back (R5, R103). -/
theorem cellCode_eq_cell1_iff {c : Cfg} (hl : Cfg.legal c = true) (v : Bool) :
    (some (cellCode c v).1, some (cellCode c v).2) = (some c.cell1.1, some c.cell1.2) ↔ v = true := by
  obtain ⟨-, -, -, -, -, -, hne, -⟩ := legal_bus hl
  cases v with
  | true => simp [cellCode]
  | false => simpa [cellCode, Prod.ext_iff] using hne

/-- Settles O38: bit `i` is read off cell `7 - i`, which carries it. -/
theorem recordedCellsDecodeToTheByte : Obligations.RecordedCellsDecodeToTheByte := by
  intro s h hb hs hbit hcnt
  have hbegin : HalfBegins s .bitFirst := ⟨h, hb, hs, hcnt⟩
  have hpos : 0 < s.cfg.tHalf.toNat := by have := hbegin.tHalf_ne_zero; bv_omega
  apply BitVec.eq_of_getLsbD_eq
  intro i hi
  obtain ⟨hfirst, hsecond⟩ := hbegin.busOd_cells hbit (j := 7 - i) (by omega) hpos
  have hbit : 7 - (7 - i) = i := by omega
  rw [Nat.add_zero, hbit] at hfirst hsecond
  rw [decodeCells, BitVec.getLsbD_ofFnLE, dif_pos hi, hfirst, hsecond]
  simp only [cellCode_eq_cell1_iff h.shape.legal, Bool.decide_eq_true]

end Sys2Proof.Machine
end

section
/-! SUPPORT. The per-cycle driver and the sequential procedure (spec/43_bus_driver.md R206, R207, R219, R221): O45. -/

namespace Sys2Proof.Machine

variable {s t : State}

/-! ### One cycle of the procedure -/

section Cycle
variable (x : Bool) (st : DrvState) (rest : List Seg) {n : Nat} {c : BitVec 32}

theorem settle_hold_zero (od : Od) : Proc.settle (.hold st od 0 :: rest) = Proc.settle rest := by
  simp [Proc.settle]

theorem settle_hold (od : Od) (hn : n ≠ 0) :
    Proc.settle (.hold st od n :: rest) = .running (.hold st od n :: rest) := by
  simp [Proc.settle, hn]

theorem settle_hold_count (od : Od) (hc : c ≠ 0#32) :
    Proc.settle (.hold st od c.toNat :: rest) = .running (.hold st od c.toNat :: rest) :=
  settle_hold st rest od (by bv_omega)

/-- A `Hold` that `drv.cnt` counts: the last cycle, or one more (R206). -/
theorem cycle_hold (od : Od) (hc : c ≠ 0#32) : Proc.cycle x (.running (.hold st od c.toNat :: rest)) =
    if c = 1#32 then Proc.settle rest else .running (.hold st od (c - 1#32).toNat :: rest) := by
  have hpred : c.toNat - 1 = (c - 1#32).toNat := by bv_omega
  rw [Proc.cycle, hpred]
  split
  · rename_i hone
    rw [hone]
    exact settle_hold_zero ..
  · rename_i hmore
    exact settle_hold_count st rest od (by bv_omega)

/-- An `AwaitLevel` that `drv.cnt` counts: the level, the last sample, or one more (R207). -/
theorem cycle_await (v : Bool) (e : Status) (hc : c ≠ 0#32) :
    Proc.cycle x (.running (.await st v c.toNat e :: rest)) =
      if x = v then Proc.settle rest else if c = 1#32 then .ended e
      else .running (.await st v (c - 1#32).toNat e :: rest) := by
  have hpred : c.toNat - 1 = (c - 1#32).toNat := by bv_omega
  have hlast : c.toNat ≤ 1 ↔ c = 1#32 := by bv_omega
  rw [Proc.cycle, hpred]
  simp only [hlast]

end Cycle

/-! ### The procedure from a byte, or from a cell, on -/

/-- The bytes of the frame with their phases, in the order sent (R105, R213 to R216). -/
def frameOf (c : Cfg) (sel cmd : Byte) (data : List Byte) : List (DrvState × Byte) :=
  (.addressPhase, sel) :: (.commandPhase, cmd) :: data.map (Prod.mk .dataPhase) ++
    [(.crcPhase, crcOf c (sel :: cmd :: data))]

/-- The frame of the transaction in hand. -/
def frame (s : State) : List (DrvState × Byte) := frameOf s.cfg s.drv.sel s.drv.cmd (dataBytes s)

/-- The procedure from the first cycle of byte `k` on: the bytes left, each with its ack slot, and the standby pulse. -/
def segsFromByte (s : State) (k : Nat) : List Seg :=
  ((frame s).drop k).flatMap (fun q => byteSegs s.cfg q.1 q.2) ++ [.hold .standbyPulse .released s.cfg.tStandby.toNat]

/-- `SendByte(b)` from cell `j` on (R208). -/
def cellsFrom (c : Cfg) (st : DrvState) (b : Byte) (j : Nat) : List Seg :=
  (List.range' j (8 - j)).flatMap fun i =>
    [.hold st (cellOf c b i).1 c.tHalf.toNat, .hold st (cellOf c b i).2 c.tHalf.toNat]

/-- The procedure from cell `j` of the byte in hand on. -/
def segsFromCell (s : State) (j : Nat) : List Seg :=
  cellsFrom s.cfg s.drv.state (frameByte s s.drv.byte.toNat) j ++
    (ackSlotSegs s.cfg s.drv.state ++ segsFromByte s (s.drv.byte.toNat + 1))

/-- What the procedure has still to run where the driver stands: the primitive in progress, with the cycles or samples
that `drv.cnt` counts, and those after it. -/
def segsLeft (s : State) : List Seg :=
  match s.drv.step with
  | .startLow => .hold .startCondition .drivenLow s.drv.cnt.toNat ::
      .await .startCondition true s.cfg.tTimeout.toNat .busTimeout :: segsFromByte s 0
  | .startRise => .await .startCondition true s.drv.cnt.toNat .busTimeout :: segsFromByte s 0
  | .bitFirst => .hold s.drv.state (curCell s s.drv.bit.toNat).1 s.drv.cnt.toNat ::
      .hold s.drv.state (curCell s s.drv.bit.toNat).2 s.cfg.tHalf.toNat :: segsFromCell s (s.drv.bit.toNat + 1)
  | .bitSecond => .hold s.drv.state (curCell s s.drv.bit.toNat).2 s.drv.cnt.toNat ::
      segsFromCell s (s.drv.bit.toNat + 1)
  | .ackDelay => .hold s.drv.state .released s.drv.cnt.toNat ::
      .await s.drv.state s.cfg.ackLevel s.cfg.tTimeout.toNat .noAcknowledge ::
      .await s.drv.state (!s.cfg.ackLevel) s.cfg.tTimeout.toNat .busTimeout :: segsFromByte s (s.drv.byte.toNat + 1)
  | .ackWait => .await s.drv.state s.cfg.ackLevel s.drv.cnt.toNat .noAcknowledge ::
      .await s.drv.state (!s.cfg.ackLevel) s.cfg.tTimeout.toNat .busTimeout :: segsFromByte s (s.drv.byte.toNat + 1)
  | .ackRise => .await s.drv.state (!s.cfg.ackLevel) s.drv.cnt.toNat .busTimeout ::
      segsFromByte s (s.drv.byte.toNat + 1)
  | .standby => [.hold .standbyPulse .released s.drv.cnt.toNat]

/-- Where the procedure stands, read off the driver's registers. -/
def procOf (s : State) : Proc := if s.drv.busy then .running (segsLeft s) else .ended s.drv.err

theorem procOf_of_busy (hb : s.drv.busy = true) : procOf s = .running (segsLeft s) := by simp [procOf, hb]

theorem procOf_of_idle (hb : s.drv.busy = false) : procOf s = .ended s.drv.err := by simp [procOf, hb]

theorem procOf_of_eq (hcfg : t.cfg = s.cfg) (hdrv : t.drv = s.drv) (htx : t.txbuf = s.txbuf) : procOf t = procOf s := by
  simp only [procOf, segsLeft, segsFromCell, segsFromByte, frame, dataBytes, curCell, frameByte, hcfg, hdrv, htx]

/-! ### The frame -/

theorem transactionSegs_eq (c : Cfg) (sel cmd : Byte) (data : List Byte) : transactionSegs c sel cmd data =
    .hold .startCondition .drivenLow c.tStart.toNat :: .await .startCondition true c.tTimeout.toNat .busTimeout ::
      ((frameOf c sel cmd data).flatMap (fun q => byteSegs c q.1 q.2) ++
        [.hold .standbyPulse .released c.tStandby.toNat]) := by
  simp [transactionSegs, frameOf, List.flatMap_map]

theorem frame_length (s : State) : (frame s).length = s.drv.n.toNat + 3 := by
  simp [frame, frameOf, dataBytes]

/-- Byte `k` of the frame is the byte in hand with `drv.byte = k`, once the CRC covers what it has to (R105, R221). -/
theorem frame_getElem? {k : Nat} (hk : k ≤ s.drv.n.toNat + 2)
    (hcrc : k = s.drv.n.toNat + 2 → s.drv.crc = crcRun s.cfg (crcBytes s)) :
    (frame s)[k]? = some (phaseOf s.drv.n.toNat k, frameByte s k) := by
  match k with
  | 0 => rfl
  | 1 => rfl
  | k + 2 =>
    have hlen : (dataBytes s).length = s.drv.n.toNat := by simp [dataBytes]
    by_cases hlt : k < s.drv.n.toNat
    · have hbyte := crcBytes_getElem? (s := s) (k := k + 2) (by omega)
      simp only [crcBytes, List.getElem?_cons_succ] at hbyte
      obtain ⟨_, hbyte⟩ := List.getElem?_eq_some_iff.1 hbyte
      have hphase : phaseOf s.drv.n.toNat (k + 2) = .dataPhase := by simp [phaseOf]; omega
      simp [frame, frameOf, List.getElem?_append, hlen, hlt, hbyte, hphase]
    · have heq : k = s.drv.n.toNat := by omega
      subst heq
      rw [phaseOf_crcByte (by omega), frameByte_crcByte (by omega), hcrc rfl]
      simp [frame, frameOf, hlen, crcOf, crcBytes]

/-! ### Entering a byte, a cell, a slot -/

theorem cellsFrom_of_lt (c : Cfg) (st : DrvState) (b : Byte) {j : Nat} (hj : j < 8) : cellsFrom c st b j =
    .hold st (cellOf c b j).1 c.tHalf.toNat :: .hold st (cellOf c b j).2 c.tHalf.toNat :: cellsFrom c st b (j + 1) := by
  have hlen : 8 - j = 8 - (j + 1) + 1 := by omega
  simp only [cellsFrom, hlen, List.range'_succ, List.flatMap_cons, List.cons_append, List.nil_append]

theorem cellsFrom_eight (c : Cfg) (st : DrvState) (b : Byte) : cellsFrom c st b 8 = [] := rfl

theorem cellsFrom_zero (c : Cfg) (st : DrvState) (b : Byte) : cellsFrom c st b 0 = sendByteSegs c st b := rfl

theorem segsFromByte_of_frame {k : Nat} {q : DrvState × Byte} (h : (frame s)[k]? = some q) :
    segsFromByte s k = cellsFrom s.cfg q.1 q.2 0 ++ (ackSlotSegs s.cfg q.1 ++ segsFromByte s (k + 1)) := by
  obtain ⟨hk, hq⟩ := List.getElem?_eq_some_iff.1 h
  rw [segsFromByte, List.drop_eq_getElem_cons hk, hq, List.flatMap_cons, byteSegs, ← cellsFrom_zero,
    List.append_assoc, List.append_assoc, segsFromByte]

theorem segsFromByte_last {k : Nat} (h : s.drv.n.toNat + 3 ≤ k) :
    segsFromByte s k = [.hold .standbyPulse .released s.cfg.tStandby.toNat] := by
  rw [segsFromByte, List.drop_of_length_le (by rwa [frame_length])]
  rfl

/-- The driver that begins byte `k` stands where the procedure does (R208, R221). -/
theorem procOf_beginByte (hb : s.drv.busy = true) (hhalf : s.cfg.tHalf ≠ 0#32) {k : BitVec 9}
    (hk : (frame s)[k.toNat]? = some (phaseOf s.drv.n.toNat k.toNat, frameByte s k.toNat)) :
    procOf (beginByte k s) = Proc.settle (segsFromByte s k.toNat) := by
  rw [procOf_of_busy (show (beginByte k s).drv.busy = true from hb), segsFromByte_of_frame hk,
    cellsFrom_of_lt _ _ _ (by decide)]
  exact (settle_hold_count _ _ _ hhalf).symm

/-- The driver that begins another cell of the byte stands where the procedure does. -/
theorem procOf_nextCell (hb : s.drv.busy = true) (hhalf : s.cfg.tHalf ≠ 0#32) (hbit : s.drv.bit < 7#4) :
    procOf (nextCell s) = Proc.settle (segsFromCell s (s.drv.bit.toNat + 1)) := by
  have hsucc : (s.drv.bit + 1#4).toNat = s.drv.bit.toNat + 1 := by bv_omega
  rw [procOf_of_busy (show (nextCell s).drv.busy = true from hb), segsFromCell, cellsFrom_of_lt _ _ _ (by bv_omega),
    ← hsucc]
  exact (settle_hold_count _ _ _ hhalf).symm

/-- The driver that begins an ack slot stands where the procedure does (R210). -/
theorem procOf_byteOut (hb : s.drv.busy = true) :
    procOf (byteOut s) = Proc.settle (segsFromCell s 8) := by
  rw [procOf_of_busy ((byteOut_goesOn s).busy.trans hb), segsFromCell, cellsFrom_eight, byteOut_eq]
  split
  · rename_i hdelay
    simp only [ackSlotSegs, hdelay]
    rfl
  · rename_i hdelay
    exact (settle_hold_count _ _ _ hdelay).symm

/-- The driver whose ack slot is over stands where the procedure does (R213 to R218). -/
theorem procOf_slotDone (h : PositionInv s) (hb : s.drv.busy = true) (hhalf : s.cfg.tHalf ≠ 0#32)
    (hbit : s.drv.bit = 8#4) : procOf (slotDone s) = Proc.settle (segsFromByte s (s.drv.byte.toNat + 1)) := by
  have hrange := h.byteRange
  by_cases hlt : s.drv.byte.toNat < s.drv.n.toNat + 2
  · have hsucc : (s.drv.byte + 1#9).toNat = s.drv.byte.toNat + 1 := by bv_omega
    have hcrc := h.crc
    rw [bytesOut_of_bit_eq hbit] at hcrc
    rw [slotDone_next hlt, ← hsucc]
    refine procOf_beginByte hb hhalf (frame_getElem? (by omega) fun hlast => ?_)
    rw [hcrc, List.take_of_length_le (by rw [crcBytes_length]; omega)]
  · rw [segsFromByte_last (by omega)]
    by_cases hst : s.cfg.tStandby = 0#32
    · rw [slotDone_complete hlt hst, hst]
      rfl
    · rw [slotDone_standby hlt hst, settle_hold_count _ _ _ hst]
      exact procOf_of_busy hb

/-! ### One tick is one cycle (R221) -/

theorem procOf_countDown (hb : s.drv.busy = true) : procOf (countDown s) = .running (segsLeft (countDown s)) :=
  procOf_of_busy hb

/-- `DriverTick` does to the driver what one cycle with the same sample does to the procedure (R219, R221). -/
theorem procOf_driverTick (h : PositionInv s) (hl : Cfg.legal s.cfg = true) (hb : s.drv.busy = true) (x : Bool) :
    procOf (driverTick x s) = Proc.cycle x (procOf s) := by
  obtain ⟨-, -, -, hhalf, -⟩ := legal_bus hl
  have hcnt := h.counting
  have hpos := h.position
  have hmore := procOf_countDown hb
  rw [procOf_of_busy hb]
  rw [segsLeft, countDown_drv_step] at hmore
  rw [segsLeft]
  cases hs : s.drv.step <;> simp only [hs, PositionOf] at hpos hmore ⊢
  case startLow =>
    rw [driverTick_startLow x hs, cycle_hold _ _ _ _ hcnt, tickStartLow]
    split
    · exact procOf_of_busy hb
    · exact hmore
  case startRise =>
    rw [driverTick_startRise x hs, cycle_await _ _ _ _ _ hcnt, tickStartRise]
    split
    · exact procOf_beginByte (k := 0#9) hb hhalf rfl
    · split
      · rfl
      · exact hmore
  case bitFirst =>
    rw [driverTick_bitFirst x hs, cycle_hold _ _ _ _ hcnt, tickBitFirst]
    split
    · rw [settle_hold_count _ _ _ hhalf]
      exact procOf_of_busy hb
    · exact hmore
  case bitSecond =>
    obtain ⟨-, hbit, -⟩ := hpos
    have hlast : ¬ 1#32 < s.drv.cnt ↔ s.drv.cnt = 1#32 := by bv_omega
    rw [driverTick_bitSecond x hs, cycle_hold _ _ _ _ hcnt, tickBitSecond_eq]
    by_cases hone : s.drv.cnt = 1#32
    · rw [if_neg (hlast.2 hone), if_pos hone]
      split
      · exact procOf_nextCell hb hhalf ‹_›
      · have hseven : s.drv.bit.toNat + 1 = 8 := by bv_omega
        rw [hseven]
        exact procOf_byteOut hb
    · rw [if_pos (not_not.1 (mt hlast.1 hone)), if_neg hone]
      exact hmore
  case ackDelay =>
    rw [driverTick_ackDelay x hs, cycle_hold _ _ _ _ hcnt, tickAckDelay]
    split
    · exact procOf_of_busy hb
    · exact hmore
  case ackWait =>
    rw [driverTick_ackWait x hs, cycle_await _ _ _ _ _ hcnt, tickAckWait]
    split
    · exact procOf_of_busy hb
    · split
      · rfl
      · exact hmore
  case ackRise =>
    obtain ⟨-, hbit, -⟩ := hpos
    rw [driverTick_ackRise x hs, cycle_await _ _ _ _ _ hcnt, tickAckRise]
    split
    · exact procOf_slotDone h hb hhalf hbit
    · split
      · rfl
      · exact hmore
  case standby =>
    rw [driverTick_standby x hs, cycle_hold _ _ _ _ hcnt, tickStandby]
    split
    · rfl
    · exact hmore

/-- A tick of the machine is a cycle of the procedure; one that has ended stays where it is. -/
theorem Inv.procOf_tick (h : Inv s) : procOf (tick s) = Proc.cycle (s.sampleValue s.cfg.busPin) (procOf s) := by
  obtain ⟨hcfg, -, htx, hdrv, -⟩ := beforeDriver_same s
  cases hb : s.drv.busy with
  | false =>
    rw [procOf_of_idle hb, procOf, (tick_of_idle hb).1, hb]
    rfl
  | true =>
    have hdriver := procOf_driverTick (h.position hb).beforeDriver (hcfg ▸ h.shape.legal) (hdrv ▸ hb)
      (s.sampleValue s.cfg.busPin)
    rw [procOf_of_eq hcfg hdrv htx] at hdriver
    rw [tick_of_busy hb, ← hdriver]
    rfl

theorem Inv.lockstep_procOf (h : Inv s) (k : Nat) : lockstep k s (procOf s) = (ticks k s, procOf (ticks k s)) := by
  induction k generalizing s with
  | zero => rfl
  | succ k ih =>
    rw [lockstep, ← h.procOf_tick]
    exact ih (tick_inv h)

/-! ### What the registers show (R219) -/

/-- A driver that is not busy after a tick has the line released, if it was so or was busy before. -/
theorem Inv.released_tick (h : Inv s) (hline : s.drv.busy = false → busOd s = some .released)
    (hend : (tick s).drv.busy = false) : busOd (tick s) = some .released := by
  cases hb : s.drv.busy with
  | false =>
    obtain ⟨-, -, -, hother⟩ := tick_pin s s.cfg.busPin
    rw [busOd, tick_cfg, (hother (by simp [hb])).1]
    exact hline hb
  | true => exact (everyExitReleasesTheLine s h hb hend).1

theorem Inv.released_ticks (h : Inv s) (hb : s.drv.busy = true) (k : Nat) (hend : (ticks k s).drv.busy = false) :
    busOd (ticks k s) = some .released := by
  induction k with
  | zero => exact absurd (hb.symm.trans hend) (by decide)
  | succ k ih =>
    rw [ticks_succ] at hend ⊢
    exact (ticks_inv h k).released_tick ih hend

/-- In every step the procedure holds what the driver shows (R34, R221). -/
theorem PositionInv.holds_segsLeft (h : PositionInv s) :
    Proc.holds (.running (segsLeft s)) = (busOd s).map fun o => (s.drv.state, o) := by
  have hpos := h.position
  rw [segsLeft]
  cases hs : s.drv.step <;> simp only [hs, PositionOf, Holds] at hpos ⊢
  case startLow | startRise =>
    obtain ⟨hstate, hline, -⟩ := hpos
    rw [busOd, hline, hstate]
    rfl
  case bitFirst | bitSecond | ackDelay | ackWait | ackRise =>
    obtain ⟨-, -, hline, -⟩ := hpos
    rw [busOd, hline]
    rfl
  case standby =>
    obtain ⟨hstate, -, -, hline, -⟩ := hpos
    rw [busOd, hline, hstate]
    rfl

/-- A driver that stands where a procedure does shows it. -/
theorem Inv.showsProc_procOf (h : Inv s) (hline : s.drv.busy = false → busOd s = some .released) :
    showsProc s (procOf s) := by
  cases hb : s.drv.busy with
  | true =>
    rw [procOf_of_busy hb]
    exact ⟨hb, (h.position hb).holds_segsLeft⟩
  | false =>
    rw [procOf_of_idle hb]
    refine ⟨hb, hline hb, rfl, ?_⟩
    rcases h.idle_or_error hb with hs | hs <;> rw [hs]
    · rw [if_pos (h.driver.okElsewhere (by rw [hs]; decide))]
    · rcases h.driver.errInError hs with he | he <;> rw [he] <;> rfl

theorem JustStarted.procOf_eq {sel cmd : Byte} (h : Inv s) (hj : JustStarted s sel cmd) :
    procOf s = Proc.settle (transactionSegs s.cfg sel cmd (dataBytes s)) := by
  obtain ⟨-, -, hstart, -⟩ := legal_bus h.shape.legal
  rw [procOf_of_busy hj.busy, transactionSegs_eq, settle_hold_count _ _ _ hstart, segsLeft, hj.step, hj.cnt,
    ← hj.sel, ← hj.cmd]
  rfl

/-- Settles O45: each tick is a cycle of the procedure, and at every point the registers show it. -/
theorem driverTickFollowsTheProcedure : Obligations.DriverTickFollowsTheProcedure := by
  intro s sel cmd k h hj
  rw [← hj.procOf_eq h, h.lockstep_procOf k]
  exact (ticks_inv h k).showsProc_procOf (h.released_ticks hj.busy k)

end Sys2Proof.Machine
end

section
/-! SUPPORT. How long a transaction takes (spec/43_bus_driver.md R222): O46 and O48. -/

namespace Sys2Proof.Machine

variable {s : State}

/-! ### The cycles a procedure takes -/

/-- The cycles of one primitive, where a wait of at most `n` samples takes `wait n` of them. -/
def Seg.cycles (wait : Nat → Nat) : Seg → Nat
  | .hold _ _ n => n
  | .await _ _ n _ => wait n

/-- The cycles of a list of primitives. -/
def segsCycles (wait : Nat → Nat) (segs : List Seg) : Nat := (segs.map (Seg.cycles wait)).sum

/-- The cycles a procedure has still to run. -/
def Proc.cyclesLeft (wait : Nat → Nat) : Proc → Nat
  | .running segs => segsCycles wait segs
  | .ended _ => 0

section Cycles
variable (wait : Nat → Nat)

@[simp] theorem segsCycles_nil : segsCycles wait [] = 0 := rfl

@[simp] theorem segsCycles_hold (st : DrvState) (od : Od) (n : Nat) (segs : List Seg) :
    segsCycles wait (.hold st od n :: segs) = n + segsCycles wait segs := rfl

@[simp] theorem segsCycles_await (st : DrvState) (v : Bool) (n : Nat) (e : Status) (segs : List Seg) :
    segsCycles wait (.await st v n e :: segs) = wait n + segsCycles wait segs := rfl

@[simp] theorem segsCycles_append (l m : List Seg) :
    segsCycles wait (l ++ m) = segsCycles wait l + segsCycles wait m := by
  simp [segsCycles]

/-- A `Hold` that takes no cycle is passed over at no cost (R206). -/
theorem cyclesLeft_settle (segs : List Seg) : (Proc.settle segs).cyclesLeft wait = segsCycles wait segs := by
  induction segs with
  | nil => rfl
  | cons g rest ih =>
    match g with
    | .await .. => rfl
    | .hold st od n =>
      by_cases hn : n = 0
      · rw [hn, settle_hold_zero, ih, segsCycles_hold, Nat.zero_add]
      · rw [settle_hold _ _ _ hn]
        rfl

/-- Pieces that all take `m` cycles. -/
theorem segsCycles_flatMap {α : Type} {f : α → List Seg} {m : Nat} (hf : ∀ a, segsCycles wait (f a) = m) (l : List α) :
    segsCycles wait (l.flatMap f) = l.length * m := by
  induction l with
  | nil => simp
  | cons a l ih => rw [List.flatMap_cons, segsCycles_append, ih, hf, List.length_cons, Nat.succ_mul, Nat.add_comm]

/-- A byte takes 16 half cells (R208). -/
theorem segsCycles_sendByteSegs (c : Cfg) (st : DrvState) (b : Byte) :
    segsCycles wait (sendByteSegs c st b) = 16 * c.tHalf.toNat := by
  rw [sendByteSegs, segsCycles_flatMap wait (m := 2 * c.tHalf.toNat) (fun j => by simp [two_mul]), List.length_range]
  omega

/-- With its slot it takes the delay and two waits more (R210). -/
theorem segsCycles_byteSegs (c : Cfg) (q : DrvState × Byte) : segsCycles wait (byteSegs c q.1 q.2) =
    16 * c.tHalf.toNat + c.tAckDelay.toNat + 2 * wait c.tTimeout.toNat := by
  simp only [byteSegs, ackSlotSegs, segsCycles_append, segsCycles_sendByteSegs, segsCycles_hold, segsCycles_await,
    segsCycles_nil]
  omega

/-- From byte `k` of the frame on, in cycles (R222). -/
theorem segsCycles_segsFromByte (s : State) (k : Nat) : segsCycles wait (segsFromByte s k) =
    (s.drv.n.toNat + 3 - k) * (16 * s.cfg.tHalf.toNat + s.cfg.tAckDelay.toNat + 2 * wait s.cfg.tTimeout.toNat) +
      s.cfg.tStandby.toNat := by
  rw [segsFromByte, segsCycles_append, segsCycles_flatMap wait (segsCycles_byteSegs wait s.cfg),
    List.length_drop, frame_length]
  rfl

/-- A transaction just accepted, in cycles (R222). -/
theorem JustStarted.cyclesLeft_eq {sel cmd : Byte} (hj : JustStarted s sel cmd) : (procOf s).cyclesLeft wait =
    s.cfg.tStart.toNat + wait s.cfg.tTimeout.toNat +
      (s.drv.n.toNat + 3) * (16 * s.cfg.tHalf.toNat + s.cfg.tAckDelay.toNat + 2 * wait s.cfg.tTimeout.toNat) +
      s.cfg.tStandby.toNat := by
  rw [procOf_of_busy hj.busy, segsLeft, hj.step, hj.cnt]
  simp only [Proc.cyclesLeft, segsCycles_hold, segsCycles_await, segsCycles_segsFromByte, Nat.sub_zero]
  omega

end Cycles

/-! ### One cycle of a primitive in progress -/

/-- A primitive that can be in progress: a cycle, or a sample, is left; a wait that fails reports an error. -/
def Seg.InProgress : Seg → Prop
  | .hold _ _ n => n ≠ 0
  | .await _ _ n e => n ≠ 0 ∧ e ≠ .ok

/-- The sample is the one that a primitive in progress waits for, if it waits. -/
def Seg.Meets (x : Bool) : Seg → Prop
  | .hold _ _ _ => True
  | .await _ v _ _ => x = v

section OneCycle
variable {x : Bool} {g : Seg} {rest : List Seg}

/-- A cycle brings the end nearer, counting every wait at its longest (R206, R207). -/
theorem Seg.InProgress.cycle_longest (hg : g.InProgress) :
    (Proc.cycle x (.running (g :: rest))).cyclesLeft id + 1 ≤ segsCycles id (g :: rest) := by
  match g with
  | .hold st od n =>
    have hn : n ≠ 0 := hg
    rw [Proc.cycle, cyclesLeft_settle, segsCycles_hold, segsCycles_hold]
    omega
  | .await st v n e =>
    obtain ⟨hn, -⟩ := hg
    rw [Proc.cycle, segsCycles_await, id]
    split_ifs
    · rw [cyclesLeft_settle]
      omega
    · simp only [Proc.cyclesLeft]
      omega
    · simp only [Proc.cyclesLeft, segsCycles_await, id]
      omega

/-- A cycle that meets its wait brings the end nearer by one, counting every wait as one sample. -/
theorem Seg.InProgress.cycle_prompt (hg : g.InProgress) (hx : g.Meets x) :
    ∃ l, Proc.cycle x (.running (g :: rest)) = Proc.settle l ∧
      segsCycles (fun _ => 1) l + 1 = segsCycles (fun _ => 1) (g :: rest) := by
  match g with
  | .hold st od n =>
    have hn : n ≠ 0 := hg
    refine ⟨_, rfl, ?_⟩
    rw [segsCycles_hold, segsCycles_hold]
    omega
  | .await st v n e =>
    refine ⟨rest, if_pos hx, ?_⟩
    rw [segsCycles_await, Nat.add_comm]

/-- A cycle that does not end in an error brings the end nearer by at most one, counting every wait as one sample. -/
theorem Seg.InProgress.cycle_shortest (hg : g.InProgress) :
    (∃ e ≠ Status.ok, Proc.cycle x (.running (g :: rest)) = .ended e) ∨
    segsCycles (fun _ => 1) (g :: rest) ≤ (Proc.cycle x (.running (g :: rest))).cyclesLeft (fun _ => 1) + 1 := by
  match g with
  | .hold st od n =>
    refine .inr ?_
    rw [Proc.cycle, cyclesLeft_settle, segsCycles_hold, segsCycles_hold]
    omega
  | .await st v n e =>
    obtain ⟨-, he⟩ := hg
    rw [Proc.cycle, segsCycles_await]
    split_ifs
    · refine .inr ?_
      rw [cyclesLeft_settle]
      omega
    · exact .inl ⟨e, he, rfl⟩
    · refine .inr ?_
      simp only [Proc.cyclesLeft, segsCycles_await]
      omega

end OneCycle

theorem settle_eq_ended {l : List Seg} {e : Status} (h : Proc.settle l = .ended e) : e = .ok := by
  induction l with
  | nil => cases h; rfl
  | cons g rest ih =>
    match g with
    | .await .. => cases h
    | .hold st od n =>
      by_cases hn : n = 0
      · rw [hn, settle_hold_zero] at h
        exact ih h
      · rw [settle_hold _ _ _ hn] at h
        cases h

/-! ### The machine, tick by tick -/

/-- The sample of this cycle ends the wait the driver is in, if it is in one (R207, R210, R212). -/
structure Prompt (s : State) : Prop where
  rise : s.drv.step = .startRise → s.sampleValue s.cfg.busPin = true
  acknowledge : s.drv.step = .ackWait → s.sampleValue s.cfg.busPin = s.cfg.ackLevel
  letGo : s.drv.step = .ackRise → s.sampleValue s.cfg.busPin = !s.cfg.ackLevel

/-- A busy driver is in some primitive of the procedure. -/
theorem PositionInv.segsLeft_eq_cons (h : PositionInv s) :
    ∃ g rest, segsLeft s = g :: rest ∧ g.InProgress ∧ (Prompt s → g.Meets (s.sampleValue s.cfg.busPin)) := by
  have hcnt : s.drv.cnt.toNat ≠ 0 := by have := h.counting; bv_omega
  rw [segsLeft]
  cases hs : s.drv.step
  case startRise => exact ⟨_, _, rfl, ⟨hcnt, by decide⟩, fun hp => hp.rise hs⟩
  case ackWait => exact ⟨_, _, rfl, ⟨hcnt, by decide⟩, fun hp => hp.acknowledge hs⟩
  case ackRise => exact ⟨_, _, rfl, ⟨hcnt, by decide⟩, fun hp => hp.letGo hs⟩
  case startLow | bitFirst | bitSecond | ackDelay | standby => exact ⟨_, _, rfl, hcnt, fun _ => trivial⟩

/-- The longest the transaction in hand can still take, in ticks. -/
def longestLeft (s : State) : Nat := (procOf s).cyclesLeft id

/-- The shortest a success of the transaction in hand can still take, in ticks. -/
def shortestLeft (s : State) : Nat := (procOf s).cyclesLeft fun _ => 1

theorem Inv.err_of_busy (h : Inv s) (hb : s.drv.busy = true) : s.drv.err = .ok :=
  h.driver.okElsewhere (DrvState.ne_error_of_inTransaction (h.driver.busy.symm.trans hb))

theorem err_of_procOf_ended {e : Status} (h : procOf s = .ended e) : s.drv.busy = false ∧ s.drv.err = e := by
  cases hb : s.drv.busy with
  | true => simp [procOf_of_busy hb] at h
  | false => simpa [procOf_of_idle hb] using h

theorem Inv.longestLeft_tick (h : Inv s) (hb : s.drv.busy = true) : longestLeft (tick s) + 1 ≤ longestLeft s := by
  obtain ⟨g, rest, heq, hg, -⟩ := (h.position hb).segsLeft_eq_cons
  rw [longestLeft, longestLeft, h.procOf_tick, procOf_of_busy hb, heq]
  exact hg.cycle_longest

theorem Inv.shortestLeft_tick (h : Inv s) (hb : s.drv.busy = true) (hok : (tick s).drv.err = .ok) :
    shortestLeft s ≤ shortestLeft (tick s) + 1 := by
  obtain ⟨g, rest, heq, hg, -⟩ := (h.position hb).segsLeft_eq_cons
  have hproc := h.procOf_tick
  rw [procOf_of_busy hb, heq] at hproc
  rcases hg.cycle_shortest (x := s.sampleValue s.cfg.busPin) (rest := rest) with ⟨e, he, hend⟩ | hle
  · exact absurd ((err_of_procOf_ended (hproc.trans hend)).2.symm.trans hok) he
  · rw [shortestLeft, shortestLeft, hproc, procOf_of_busy hb, heq]
    exact hle

theorem Inv.prompt_tick (h : Inv s) (hb : s.drv.busy = true) (hp : Prompt s) :
    shortestLeft (tick s) + 1 = shortestLeft s ∧ (tick s).drv.err = .ok := by
  obtain ⟨g, rest, heq, hg, hx⟩ := (h.position hb).segsLeft_eq_cons
  obtain ⟨l, hcycle, hcycles⟩ := hg.cycle_prompt (rest := rest) (hx hp)
  have hproc := h.procOf_tick
  rw [procOf_of_busy hb, heq, hcycle] at hproc
  constructor
  · rw [shortestLeft, shortestLeft, hproc, cyclesLeft_settle, procOf_of_busy hb, heq]
    exact hcycles
  · cases hbusy : (tick s).drv.busy with
    | true => exact (tick_inv h).err_of_busy hbusy
    | false => exact settle_eq_ended (hproc.symm.trans (procOf_of_idle hbusy))

/-! ### Both bounds (R222) -/

theorem Inv.longestLeft_ticks (h : Inv s) {k : Nat} (hb : ∀ j < k, (ticks j s).drv.busy = true) :
    longestLeft (ticks k s) + k ≤ longestLeft s := by
  induction k with
  | zero => exact le_rfl
  | succ k ih =>
    have hk := ih fun j hj => hb j (by omega)
    have htick := (ticks_inv h k).longestLeft_tick (hb k (by omega))
    rw [ticks_succ]
    omega

theorem Inv.shortestLeft_ticks (h : Inv s) {k : Nat} (hb : ∀ j < k, (ticks j s).drv.busy = true)
    (hok : (ticks k s).drv.err = .ok) : shortestLeft s ≤ shortestLeft (ticks k s) + k := by
  induction k with
  | zero => exact le_rfl
  | succ k ih =>
    have hbusy := hb k (by omega)
    have hk := ih (fun j hj => hb j (by omega)) ((ticks_inv h k).err_of_busy hbusy)
    rw [ticks_succ] at hok ⊢
    have htick := (ticks_inv h k).shortestLeft_tick hbusy hok
    omega

theorem JustStarted.longestLeft_eq {sel cmd : Byte} (hj : JustStarted s sel cmd) :
    longestLeft s = longestTransaction s.cfg s.drv.n.toNat :=
  hj.cyclesLeft_eq id

theorem JustStarted.shortestLeft_eq {sel cmd : Byte} (hj : JustStarted s sel cmd) :
    shortestLeft s = shortestTransaction s.cfg s.drv.n.toNat :=
  hj.cyclesLeft_eq fun _ => 1

theorem Inv.exists_not_busy (h : Inv s) : ∃ k, (ticks k s).drv.busy = false := by
  by_contra hno
  have hb : ∀ k, (ticks k s).drv.busy = true := by simpa using hno
  have hlast := h.longestLeft_ticks (k := longestLeft s + 1) fun j _ => hb j
  omega

/-- Settles O46: each tick brings the longest end nearer, and no tick that succeeds skips a cycle of the shortest. -/
theorem everyTransactionEndsWithinItsBound : Obligations.EveryTransactionEndsWithinItsBound := by
  intro s sel cmd h hj
  have hex := h.exists_not_busy
  have hb : ∀ j < Nat.find hex, (ticks j s).drv.busy = true := fun j hlt => by simpa using Nat.find_min hex hlt
  have hend := Nat.find_spec hex
  refine ⟨Nat.find hex, ?_, hend, hb, fun hok => ?_⟩
  · have hlongest := h.longestLeft_ticks hb
    rw [hj.longestLeft_eq] at hlongest
    omega
  · have hshortest := h.shortestLeft_ticks hb hok
    rwa [hj.shortestLeft_eq, shortestLeft, procOf_of_idle hend, Proc.cyclesLeft, Nat.zero_add] at hshortest

/-! ### The line in a wait -/

theorem ticks_env (k : Nat) (s : State) : (ticks k s).env = s.env.drop k := by
  induction k with
  | zero => rfl
  | succ k ih =>
    obtain ⟨-, henv, -⟩ := tick_schedule (ticks k s)
    rw [ticks_succ, henv, ih, List.tail_drop]

/-- What the schedule says of cycle `k` is what the machine meets there (R36). -/
theorem ext_of_lowAt {p k : Nat} {low : Bool} (h : lowAt s p k = some low) : (ticks k s).ext p = low := by
  obtain ⟨c, hc, hlow⟩ := Option.map_eq_some_iff.1 h
  obtain ⟨hk, hget⟩ := List.getElem?_eq_some_iff.1 hc
  have henv := ticks_env k s
  rw [List.drop_eq_getElem_cons hk, hget] at henv
  rw [State.ext, henv]
  exact hlow

theorem ticks_padreg (k : Nat) (s : State) : (ticks k s).padreg = s.padreg := by
  induction k with
  | zero => rfl
  | succ k ih => rw [ticks_succ, tick_padreg, ih]

/-- No tick writes a pull (R42). -/
theorem PulledUp.ticks {p : Nat} (h : PulledUp s p) (k : Nat) : PulledUp (ticks k s) p := by
  simpa only [PulledUp, State.pue, State.pde, State.padBit, State.memRead, ticks_padreg, ticks_cfg] using h

/-- A released, pulled-up line is sampled high exactly when nobody else pulls it low (R67, R303). -/
theorem Inv.sample_of_released (h : Inv s) (hline : Holds s .released) (hup : PulledUp s s.cfg.busPin) :
    s.sampleValue s.cfg.busPin = !s.ext s.cfg.busPin := by
  obtain ⟨-, -, hoe⟩ := (h.pins _ (h.shape.lt_of_acquired hline.od_ne_none)).released.1 hline
  obtain ⟨hpue, hpde⟩ := hup
  have hlevel := s.line_of_released hoe hpue hpde
  cases hext : s.ext s.cfg.busPin <;> rw [hext] at hlevel <;> simp [State.sampleValue, hlevel]

/-! ### A prompt device (R222) -/

/-- `drv.n` is written by `transact` alone (R204, R221). -/
theorem tick_n (s : State) : (tick s).drv.n = s.drv.n := by
  obtain ⟨-, -, -, hdrv, -⟩ := beforeDriver_same s
  cases hb : s.drv.busy with
  | false => rw [(tick_of_idle hb).1]
  | true =>
    rw [tick_of_busy hb, ← hdrv]
    rcases driverTick_ends_or_goesOn (s.sampleValue s.cfg.busPin) (beforeDriver s) with ⟨st, e, -, heq⟩ | g
    · rw [heq]
      rfl
    · exact g.n

theorem ticks_n (k : Nat) (s : State) : (ticks k s).drv.n = s.drv.n := by
  induction k with
  | zero => rfl
  | succ k ih => rw [ticks_succ, tick_n, ih]

/-- A frame of `n + 3` bytes is the bytes after byte `b`, those before it, and byte `b` itself. -/
theorem frame_split {n b : Nat} (hb : b ≤ n + 2) (m : Nat) : (n + 3) * m = (n + 3 - (b + 1)) * m + b * m + m := by
  rw [← Nat.add_mul, ← Nat.succ_mul]
  congr 1
  omega

/-- The first sample of the slot of byte `b`, told by the cycles left. -/
theorem promptAck_of_first_sample {c : Cfg} {n b k : Nat} (hb : b ≤ n + 2)
    (hk : 1 + (1 + ((n + 3 - (b + 1)) * (16 * c.tHalf.toNat + c.tAckDelay.toNat + 2) + c.tStandby.toNat)) + k =
      shortestTransaction c n) : PromptAck c n k := by
  have hsplit := frame_split hb (16 * c.tHalf.toNat + c.tAckDelay.toNat + 2)
  rw [shortestTransaction] at hk
  exact ⟨b, by omega, by omega⟩

/-- The second sample of the slot of byte `b`, told so, is no first sample of another. -/
theorem not_promptAck_of_second_sample {c : Cfg} {n b k : Nat} (hb : b ≤ n + 2)
    (hk : 1 + ((n + 3 - (b + 1)) * (16 * c.tHalf.toNat + c.tAckDelay.toNat + 2) + c.tStandby.toNat) + k =
      shortestTransaction c n) : ¬ PromptAck c n k := by
  rintro ⟨j, -, hj⟩
  have hsplit := frame_split hb (16 * c.tHalf.toNat + c.tAckDelay.toNat + 2)
  rw [shortestTransaction] at hk
  have hnext : j * (16 * c.tHalf.toNat + c.tAckDelay.toNat + 2) =
    b * (16 * c.tHalf.toNat + c.tAckDelay.toNat + 2) + 1 := by omega
  have hdvd := (Nat.dvd_add_right (Nat.dvd_mul_left _ b)).1 (hnext ▸ Nat.dvd_mul_left _ j)
  have hone := Nat.dvd_one.1 hdvd
  omega

/-- The sample after the start pulse is before every byte. -/
theorem not_promptAck_of_rise {c : Cfg} {n k : Nat}
    (hk : 1 + ((n + 3) * (16 * c.tHalf.toNat + c.tAckDelay.toNat + 2) + c.tStandby.toNat) + k =
      shortestTransaction c n) : ¬ PromptAck c n k := by
  rintro ⟨j, -, hj⟩
  rw [shortestTransaction] at hk
  omega

/-- The cycles of the shortest case that are left in each of the waits. -/
theorem shortestLeft_waits (hb : s.drv.busy = true) :
    (s.drv.step = .startRise → shortestLeft s =
      1 + ((s.drv.n.toNat + 3) * (16 * s.cfg.tHalf.toNat + s.cfg.tAckDelay.toNat + 2) + s.cfg.tStandby.toNat)) ∧
    (s.drv.step = .ackWait → shortestLeft s = 1 + (1 + ((s.drv.n.toNat + 3 - (s.drv.byte.toNat + 1)) *
      (16 * s.cfg.tHalf.toNat + s.cfg.tAckDelay.toNat + 2) + s.cfg.tStandby.toNat))) ∧
    (s.drv.step = .ackRise → shortestLeft s = 1 + ((s.drv.n.toNat + 3 - (s.drv.byte.toNat + 1)) *
      (16 * s.cfg.tHalf.toNat + s.cfg.tAckDelay.toNat + 2) + s.cfg.tStandby.toNat)) := by
  refine ⟨fun hs => ?_, fun hs => ?_, fun hs => ?_⟩ <;>
    rw [shortestLeft, procOf_of_busy hb, segsLeft, hs] <;>
    simp only [Proc.cyclesLeft, segsCycles_await, segsCycles_segsFromByte, Nat.sub_zero]

/-- A device that pulls the line low in the first sample of each slot, and at no other time, meets every wait. -/
theorem Inv.prompt_of_promptAck (h : Inv s) (hb : s.drv.busy = true) (hup : PulledUp s s.cfg.busPin) {k : Nat}
    (hleft : shortestLeft s + k = shortestTransaction s.cfg s.drv.n.toNat)
    (hext : s.ext s.cfg.busPin = true ↔ PromptAck s.cfg s.drv.n.toNat k) : Prompt s := by
  obtain ⟨-, -, -, -, -, -, -, hack, -⟩ := legal_bus h.shape.legal
  obtain ⟨hrise, hwait, hlet⟩ := shortestLeft_waits hb
  have hrange := (h.position hb).byteRange
  have hpos := (h.position hb).position
  refine ⟨fun hs => ?_, fun hs => ?_, fun hs => ?_⟩ <;> rw [hs] at hpos
  · have hlow := mt hext.1 (not_promptAck_of_rise (hrise hs ▸ hleft))
    rw [h.sample_of_released hpos.2.1 hup]
    simpa using hlow
  · have hlow := hext.2 (promptAck_of_first_sample hrange (hwait hs ▸ hleft))
    rw [h.sample_of_released hpos.2.2.1 hup, hlow, hack]
    rfl
  · have hlow := mt hext.1 (not_promptAck_of_second_sample hrange (hlet hs ▸ hleft))
    rw [h.sample_of_released hpos.2.2.1 hup, hack]
    simpa using hlow

/-- A busy driver has a cycle left even in the shortest case; one that is not busy has none. -/
theorem Inv.shortestLeft_pos_iff (h : Inv s) : 0 < shortestLeft s ↔ s.drv.busy = true := by
  cases hb : s.drv.busy with
  | false => simp [shortestLeft, procOf_of_idle hb, Proc.cyclesLeft]
  | true =>
    obtain ⟨g, rest, heq, hg, -⟩ := (h.position hb).segsLeft_eq_cons
    rw [shortestLeft, procOf_of_busy hb, heq, Proc.cyclesLeft]
    match g with
    | .hold st od n => simpa using Or.inl (Nat.pos_of_ne_zero hg)
    | .await st v n e => simp [Nat.add_comm 1]

/-- With a prompt device every tick takes one cycle of the shortest case. -/
theorem JustStarted.prompt_ticks {sel cmd : Byte} (hj : JustStarted s sel cmd) (h : Inv s)
    (hup : PulledUp s s.cfg.busPin)
    (hlow : ∀ k < shortestTransaction s.cfg s.drv.n.toNat, ∃ low, lowAt s s.cfg.busPin k = some low ∧
      (low = true ↔ PromptAck s.cfg s.drv.n.toNat k)) {k : Nat} (hk : k ≤ shortestTransaction s.cfg s.drv.n.toNat) :
    shortestLeft (ticks k s) + k = shortestTransaction s.cfg s.drv.n.toNat ∧ (ticks k s).drv.err = .ok := by
  induction k with
  | zero => exact ⟨hj.shortestLeft_eq, h.err_of_busy hj.busy⟩
  | succ k ih =>
    obtain ⟨hleft, -⟩ := ih (by omega)
    have hinv := ticks_inv h k
    have hb := hinv.shortestLeft_pos_iff.1 (by omega)
    obtain ⟨low, hlow, hack⟩ := hlow k hk
    have hprompt : Prompt (ticks k s) := by
      refine hinv.prompt_of_promptAck hb (k := k) ?_ ?_ ?_ <;> rw [ticks_cfg]
      · exact hup.ticks k
      · rwa [ticks_n]
      · rwa [ticks_n, ext_of_lowAt hlow]
    obtain ⟨hone, hok⟩ := hinv.prompt_tick hb hprompt
    rw [ticks_succ]
    exact ⟨by omega, hok⟩

/-- How the registers stand when a transaction has ended without an error, or with one (R211, R218). -/
theorem Inv.ended (h : Inv s) (hb : s.drv.busy = true) (hend : (tick s).drv.busy = false) :
    busOd (tick s) = some .released ∧ (tick s).rsp = some (statusOnly (tick s).drv.err) ∧
    (tick s).drv.state = if (tick s).drv.err = .ok then .idle else .error := by
  obtain ⟨st, e, he, htick⟩ := tick_ends hb hend
  refine ⟨(everyExitReleasesTheLine s h hb hend).1, by rw [htick]; rfl, ?_⟩
  rw [htick]
  rcases he with ⟨rfl, rfl⟩ | ⟨rfl, rfl | rfl⟩ <;> rfl

/-- Settles O48: the shortest case counts down by one in each tick, and the end comes when it is used up. -/
theorem promptDeviceSucceedsInTheLeastTime : Obligations.PromptDeviceSucceedsInTheLeastTime := by
  intro s sel cmd h hj hup hlow
  have hleft := fun k hk => hj.prompt_ticks h hup hlow (k := k) hk
  have hbusy : ∀ k < shortestTransaction s.cfg s.drv.n.toNat, (ticks k s).drv.busy = true := fun k hk =>
    (ticks_inv h k).shortestLeft_pos_iff.1 (by have := (hleft k hk.le).1; omega)
  obtain ⟨last, hlast⟩ : ∃ m, shortestTransaction s.cfg s.drv.n.toNat = m + 1 :=
    Nat.exists_eq_add_one.2 (by rw [shortestTransaction]; omega)
  obtain ⟨hused, hok⟩ := hleft _ le_rfl
  have hend : (ticks (shortestTransaction s.cfg s.drv.n.toNat) s).drv.busy = false := by
    rw [← Bool.not_eq_true, ← (ticks_inv h _).shortestLeft_pos_iff]
    omega
  have hbefore := hbusy last (by omega)
  refine ⟨hbusy, hend, ?_⟩
  rw [hlast, ticks_succ] at hok hend ⊢
  obtain ⟨hline, hrsp, hstate⟩ := (ticks_inv h last).ended hbefore hend
  rw [hok] at hrsp hstate
  exact ⟨hstate, hrsp, hline⟩

end Sys2Proof.Machine
end

section
/-! SUPPORT. A device that never acknowledges (spec/43_bus_driver.md R222): O47. -/

namespace Sys2Proof.Machine

variable {s : State} {p q : Proc}

/-- The transaction runs through the next `n` ticks, after which the procedure stands at `p`. -/
structure Takes (s : State) (n : Nat) (p : Proc) : Prop where
  busy : ∀ k < n, (ticks k s).drv.busy = true
  stands : procOf (ticks n s) = p

theorem Takes.zero (hp : procOf s = p) : Takes s 0 p := ⟨fun k hk => absurd hk (Nat.not_lt_zero k), hp⟩

theorem Takes.trans {a b : Nat} (h : Takes s a p) (h' : Takes (ticks a s) b q) : Takes s (a + b) q := by
  refine ⟨fun k hk => ?_, by rw [ticks_add, h'.stands]⟩
  by_cases hka : k < a
  · exact h.busy k hka
  · obtain ⟨m, rfl⟩ := Nat.exists_eq_add_of_le (not_lt.1 hka)
    rw [ticks_add]
    exact h'.busy m (by omega)

theorem busy_of_procOf_running {segs : List Seg} (hp : procOf s = .running segs) : s.drv.busy = true := by
  cases hb : s.drv.busy with
  | true => rfl
  | false => simp [procOf_of_idle hb] at hp

/-- One tick from a running procedure. -/
theorem Inv.takes_one (h : Inv s) {segs : List Seg} (hs : procOf s = .running segs)
    (hp : Proc.cycle (s.sampleValue s.cfg.busPin) (.running segs) = p) : Takes s 1 p := by
  refine ⟨fun k hk => ?_, ?_⟩
  · rw [Nat.lt_one_iff.1 hk]
    exact busy_of_procOf_running hs
  · rw [← hp, ← hs]
    exact h.procOf_tick

/-- `Hold(od, n)` takes exactly `n` ticks (R206). -/
theorem Inv.takes_hold (h : Inv s) {st : DrvState} {od : Od} {n : Nat} {rest : List Seg}
    (hs : procOf s = Proc.settle (.hold st od n :: rest)) : Takes s n (Proc.settle rest) := by
  induction n generalizing s with
  | zero => exact .zero (hs.trans (settle_hold_zero ..))
  | succ n ih =>
    have hone : Takes s 1 (Proc.settle (.hold st od n :: rest)) :=
      h.takes_one (hs.trans (settle_hold _ _ _ (by omega))) rfl
    rw [Nat.add_comm]
    exact hone.trans (ih (ticks_inv h 1) hone.stands)

/-- A list of `Hold`s takes the sum of their cycles. -/
theorem Inv.takes_holds (h : Inv s) {l rest : List Seg} (hl : ∀ g ∈ l, ∃ st od n, g = .hold st od n)
    (hs : procOf s = Proc.settle (l ++ rest)) : Takes s (segsCycles id l) (Proc.settle rest) := by
  induction l generalizing s with
  | nil => exact .zero hs
  | cons g l ih =>
    obtain ⟨st, od, n, rfl⟩ := hl g List.mem_cons_self
    have hfirst := h.takes_hold hs
    exact hfirst.trans (ih (ticks_inv h n) (fun g hg => hl g (List.mem_cons_of_mem _ hg)) hfirst.stands)

/-- In a wait the line is released, so its sample is what the other participants leave of it (R207). -/
theorem Inv.sample_of_await (h : Inv s) {st : DrvState} {v : Bool} {n : Nat} {e : Status} {rest : List Seg}
    (hs : procOf s = .running (.await st v n e :: rest)) (hup : PulledUp s s.cfg.busPin) :
    s.sampleValue s.cfg.busPin = !s.ext s.cfg.busPin := by
  have hb := busy_of_procOf_running hs
  have hholds := (h.position hb).holds_segsLeft
  rw [← Proc.running.inj (hs.symm.trans (procOf_of_busy hb)), Proc.holds] at hholds
  obtain ⟨o, hod, ho⟩ := Option.map_eq_some_iff.1 hholds.symm
  rw [(Prod.mk.inj ho).2] at hod
  exact h.sample_of_released hod hup

/-- While the other participants keep the line off the level waited for, a wait of `n` samples goes on. -/
theorem Inv.takes_wait (h : Inv s) (hup : PulledUp s s.cfg.busPin) {st : DrvState} {v : Bool} {n m : Nat} {e : Status}
    {rest : List Seg} (hs : procOf s = .running (.await st v n e :: rest)) (hm : m < n)
    (hext : ∀ k < m, (ticks k s).ext s.cfg.busPin = v) : Takes s m (.running (.await st v (n - m) e :: rest)) := by
  induction m with
  | zero => exact .zero hs
  | succ m ih =>
    have hwait := ih (by omega) fun k hk => hext k (by omega)
    have hinv := ticks_inv h m
    have hsample := hinv.sample_of_await hwait.stands (by rw [ticks_cfg]; exact hup.ticks m)
    rw [ticks_cfg, hext m (by omega)] at hsample
    refine hwait.trans (hinv.takes_one hwait.stands ?_)
    rw [ticks_cfg, hsample, Proc.cycle, if_neg (by simp), if_neg (by omega)]
    rfl

/-- A wait that the `m + 1`-st sample ends (R207). -/
theorem Inv.takes_await (h : Inv s) (hup : PulledUp s s.cfg.busPin) {st : DrvState} {v : Bool} {n m : Nat} {e : Status}
    {rest : List Seg} (hs : procOf s = .running (.await st v n e :: rest)) (hm : m < n)
    (hext : ∀ k < m, (ticks k s).ext s.cfg.busPin = v) (hlast : (ticks m s).ext s.cfg.busPin = !v) :
    Takes s (m + 1) (Proc.settle rest) := by
  have hwait := h.takes_wait hup hs hm hext
  have hinv := ticks_inv h m
  have hsample := hinv.sample_of_await hwait.stands (by rw [ticks_cfg]; exact hup.ticks m)
  rw [ticks_cfg, hlast, Bool.not_not] at hsample
  refine hwait.trans (hinv.takes_one hwait.stands ?_)
  rw [ticks_cfg, hsample, Proc.cycle, if_pos rfl]

/-- A wait that no sample ends (R207, R211). -/
theorem Inv.takes_await_fails (h : Inv s) (hup : PulledUp s s.cfg.busPin) {st : DrvState} {v : Bool} {n : Nat}
    {e : Status} {rest : List Seg} (hs : procOf s = .running (.await st v n e :: rest)) (hn : n ≠ 0)
    (hext : ∀ k < n, (ticks k s).ext s.cfg.busPin = v) : Takes s n (.ended e) := by
  obtain ⟨m, rfl⟩ := Nat.exists_eq_succ_of_ne_zero hn
  have hwait := h.takes_wait hup hs (Nat.lt_succ_self m) fun k hk => hext k (by omega)
  have hinv := ticks_inv h m
  have hsample := hinv.sample_of_await hwait.stands (by rw [ticks_cfg]; exact hup.ticks m)
  rw [ticks_cfg, hext m (Nat.lt_succ_self m)] at hsample
  refine hwait.trans (hinv.takes_one hwait.stands ?_)
  rw [ticks_cfg, hsample, Proc.cycle, if_neg (by simp), if_pos (by omega)]

/-- The cells of a byte are `Hold`s. -/
theorem mem_sendByteSegs {c : Cfg} {st : DrvState} {b : Byte} {g : Seg} (hg : g ∈ sendByteSegs c st b) :
    ∃ st od n, g = .hold st od n := by
  obtain ⟨j, -, hj⟩ := List.mem_flatMap.1 hg
  rcases List.mem_pair.1 hj with rfl | rfl <;> exact ⟨_, _, _, rfl⟩

/-- The procedure from the acceptance to the first wait for an acknowledge (R212, R213). -/
theorem JustStarted.procOf_first_byte {sel cmd : Byte} (hj : JustStarted s sel cmd) (h : Inv s) :
    ∃ rest, procOf s = Proc.settle (.hold .startCondition .drivenLow s.cfg.tStart.toNat ::
      .await .startCondition true s.cfg.tTimeout.toNat .busTimeout ::
      ((sendByteSegs s.cfg .addressPhase sel ++ [.hold .addressPhase .released s.cfg.tAckDelay.toNat]) ++
        .await .addressPhase s.cfg.ackLevel s.cfg.tTimeout.toNat .noAcknowledge :: rest)) := by
  rw [hj.procOf_eq h, transactionSegs_eq, frameOf]
  simp only [List.cons_append, List.flatMap_cons, byteSegs, ackSlotSegs, List.append_assoc, List.nil_append]
  exact ⟨_, rfl⟩

/-- The cells of a byte and the delay of its slot, in cycles. -/
theorem segsCycles_cells_delay (c : Cfg) (st : DrvState) (b : Byte) :
    segsCycles id (sendByteSegs c st b ++ [.hold st .released c.tAckDelay.toNat]) =
      16 * c.tHalf.toNat + c.tAckDelay.toNat := by
  rw [segsCycles_append, segsCycles_sendByteSegs]
  rfl

/-- Settles O47: the pulse, the wait of `j` samples, the device-select byte with the delay, and the wait that fails. -/
theorem silentDeviceGivesNoAcknowledge : Obligations.SilentDeviceGivesNoAcknowledge := by
  intro s sel cmd j last h hj hup hj1 hjn hlast hlow
  obtain ⟨-, -, -, -, htimeout, -, -, hack, -⟩ := legal_bus h.shape.legal
  have hn : s.cfg.tTimeout.toNat ≠ 0 := by omega
  obtain ⟨m, rfl⟩ := Nat.exists_eq_add_of_le' hj1
  obtain ⟨rest, hs⟩ := hj.procOf_first_byte h
  have hext : ∀ a k, a + k < last → (ticks k (ticks a s)).ext (ticks a s).cfg.busPin =
      decide (s.cfg.tStart.toNat ≤ a + k ∧ a + k < s.cfg.tStart.toNat + m) := fun a k hk => by
    rw [← ticks_add, ticks_cfg, ext_of_lowAt (hlow _ hk), decide_eq_decide]
    omega
  have hpull : ∀ a, PulledUp (ticks a s) (ticks a s).cfg.busPin := fun a => by rw [ticks_cfg]; exact hup.ticks a
  have hpulse := h.takes_hold hs
  have hrise := hpulse.trans ((ticks_inv h _).takes_await (hpull _) hpulse.stands hjn
    (fun k hk => (hext _ k (by omega)).trans (by simpa using hk))
    ((hext _ m (by omega)).trans (by simp)))
  have hbyte := hrise.trans ((ticks_inv h _).takes_holds (fun g hg => by
    rcases List.mem_append.1 hg with hg | hg
    · exact mem_sendByteSegs hg
    · exact ⟨_, _, _, List.mem_singleton.1 hg⟩) hrise.stands)
  rw [segsCycles_cells_delay] at hbyte
  have hwait := hbyte.trans ((ticks_inv h _).takes_await_fails (hpull _) hbyte.stands hn
    (fun k hk => (hext _ k (by omega)).trans (by rw [hack]; simp; omega)))
  have hsum : s.cfg.tStart.toNat + (m + 1) + (16 * s.cfg.tHalf.toNat + s.cfg.tAckDelay.toNat) +
      s.cfg.tTimeout.toNat = last := by omega
  rw [hsum] at hwait
  obtain ⟨hend, herr⟩ := err_of_procOf_ended hwait.stands
  obtain ⟨before, hbefore⟩ : ∃ b, last = b + 1 := Nat.exists_eq_add_one.2 (by omega)
  have hbusy := hwait.busy before (by omega)
  refine ⟨hwait.busy, hend, ?_⟩
  rw [hbefore, ticks_succ] at hend herr ⊢
  obtain ⟨hline, hrsp, hstate⟩ := (ticks_inv h before).ended hbusy hend
  rw [herr] at hrsp hstate
  exact ⟨hstate, herr, hrsp, hline⟩

end Sys2Proof.Machine
end

section
/-! SUPPORT. The statuses of the responses (spec/60_exceptions.md R260 to R270, R280): O55 to O57. -/

namespace Sys2Proof.Machine

variable {s t : State} {i : Instr} {r : Word} {st : Status}

/-! ### The status of a response word (R96) -/

theorem responseStatus_responseWord (st : Status) (hnd : BitVec 8) (val : Bool) :
    responseStatus (responseWord st hnd val) = 0#1 ++ st.code := by
  unfold responseStatus responseWord
  generalize 0#1 ++ st.code = code
  ext j hj
  simp only [BitVec.getElem_extractLsb', BitVec.getLsbD_append]
  interval_cases j <;> simp

@[simp] theorem responseStatus_statusOnly (st : Status) : responseStatus (statusOnly st) = 0#1 ++ st.code :=
  responseStatus_responseWord ..

@[simp] theorem responseStatus_okValue (val : Bool) : responseStatus (okValue val) = 0#1 ++ Status.ok.code :=
  responseStatus_responseWord ..

/-- Of the eight codes only `CrcMismatch` has 6 (R97). -/
theorem Status.code_eq_six_iff : 0#1 ++ st.code = 6#4 ↔ st = .crcMismatch := by
  cases st <;> decide

/-! ### What an operation answers -/

/-- How an operation `i` can end at `s`: it raises an error of its row, and then its response is all it has written;
or `Ok` stands in its row, and it answers so; or it is a `transact` that goes busy and is answered later (R267,
R280). -/
inductive Answers (i : Instr) (s : State) : State → Prop
  | raised {e : Status} (hrow : e ∈ opStatuses i := by simp [opStatuses]) (herr : e ≠ .ok := by decide) :
      Answers i s (s.respond (statusOnly e))
  | done {t : State} {val : Bool} (hrsp : t.rsp = some (okValue val))
      (hrow : .ok ∈ opStatuses i := by simp [opStatuses]) : Answers i s t
  | running {t : State} {sel cmd : Byte} {n : Nat} (hi : i = .transact sel cmd n) (hrsp : t.rsp = none)
      (hbusy : t.drv.busy = true) : Answers i s t

/-- The errors of `acquire` are those of a row that marks all three (R150, R203). -/
theorem Answers.of_acquireError {g p : Nat} {e : Status} (he : acquireError s g p = some e)
    (hrow : [.pinConfigurationFailed, .pinAlreadyOwned, .refused] ⊆ opStatuses i) :
    Answers i s (s.respond (statusOnly e)) := by
  obtain ⟨-, rfl⟩ | ⟨-, -, rfl⟩ | ⟨-, -, rfl⟩ := acquireError_some he <;> exact .raised (hrow (by simp))

theorem exec_answers_as_listed (h : exec i s = .next t) : Answers i s t := by
  cases i with
  | getPullUp g i =>
    obtain ⟨-, rfl⟩ | ⟨-, rfl⟩ := execGetPullUp_cases h
    · exact .raised
    · exact .done rfl
  | setPullUp g i enabled =>
    obtain ⟨-, rfl⟩ | ⟨-, -, rfl⟩ | ⟨-, -, rfl⟩ := execSetPullUp_cases h
    · exact .raised
    · exact .done rfl
    · exact .done rfl
  | getPullDown g i =>
    obtain ⟨-, rfl⟩ | ⟨-, rfl⟩ := execGetPullDown_cases h
    · exact .raised
    · exact .done rfl
  | setPullDown g i enabled =>
    obtain ⟨-, rfl⟩ | ⟨-, -, rfl⟩ | ⟨-, -, rfl⟩ := execSetPullDown_cases h
    · exact .raised
    · exact .done rfl
    · exact .done rfl
  | acquire g p =>
    obtain ⟨e, he, rfl⟩ | ⟨-, rfl⟩ := execAcquire_cases h
    · exact .of_acquireError he (by simp [opStatuses])
    · exact .done rfl
  | release p =>
    obtain ⟨-, rfl⟩ | ⟨-, rfl⟩ := execRelease_cases h
    · exact .raised
    · exact .done rfl
  | driveLow p =>
    obtain ⟨-, rfl⟩ | ⟨-, rfl⟩ := execDriveLow_cases h
    · exact .raised
    · exact .done rfl
  | read p =>
    obtain ⟨-, rfl⟩ | ⟨-, -, rfl⟩ := execRead_cases h
    · exact .raised
    · exact .done rfl
  | configure p half =>
    obtain ⟨-, rfl⟩ | ⟨-, -, -, rfl⟩ := execConfigure_cases h
    · exact .raised
    · exact .done rfl
  | start k =>
    obtain ⟨-, rfl⟩ | ⟨-, -, -, ⟨-, rfl⟩ | ⟨-, rfl⟩⟩ := execStart_cases h
    · exact .raised
    · exact .raised
    · exact .done rfl
  | stop k =>
    obtain ⟨-, rfl⟩ | ⟨-, -, rfl⟩ | ⟨-, -, rfl⟩ := execStop_cases h
    · exact .raised
    · exact .done rfl
    · exact .done rfl
  | transact sel cmd n =>
    obtain ⟨-, rfl⟩ | ⟨-, -, ⟨e, he, rfl⟩ | ⟨-, rfl⟩⟩ | ⟨-, -, rfl⟩ := execTransact_cases h
    · exact .raised
    · exact .of_acquireError he (by simp [opStatuses])
    · exact .running rfl rfl rfl
    · exact .running rfl rfl rfl
  | wrbuf k byte =>
    obtain ⟨-, rfl⟩ | ⟨-, rfl⟩ := execWrbuf_cases h
    · exact .raised
    · exact .done rfl

/-- A response that does not say `Ok` is all that the operation has written (R267). -/
theorem Answers.eq_of_not_ok (h : Answers i s t) (hr : t.rsp = some r) (hne : responseStatus r ≠ 0#4) :
    t = { s with rsp := some r } := by
  cases h with
  | raised =>
    obtain rfl : statusOnly _ = r := Option.some.inj hr
    rfl
  | done hrsp =>
    obtain rfl : okValue _ = r := Option.some.inj (hrsp.symm.trans hr)
    exact absurd (responseStatus_okValue _) hne
  | running hi hrsp => exact nomatch hrsp.symm.trans hr

/-- The status of a response stands in the operation's row; with no response the driver is busy (R280). -/
theorem Answers.status (h : Answers i s t) :
    (∃ st ∈ opStatuses i, ∃ r, t.rsp = some r ∧ responseStatus r = 0#1 ++ st.code) ∨
    ((∃ sel cmd n, i = .transact sel cmd n) ∧ t.rsp = none ∧ t.drv.busy = true) := by
  cases h with
  | raised hrow => exact .inl ⟨_, hrow, _, rfl, responseStatus_statusOnly _⟩
  | done hrsp hrow => exact .inl ⟨_, hrow, _, hrsp, responseStatus_okValue _⟩
  | running hi hrsp hbusy => exact .inr ⟨⟨_, _, _, hi⟩, hrsp, hbusy⟩

/-- Settles O55: an operation that does not answer `Ok` has raised an error. -/
theorem errorsInTheRequestChangeNothing : Obligations.ErrorsInTheRequestChangeNothing := by
  intro i s t r h hr hst
  refine (exec_answers_as_listed h).eq_of_not_ok hr fun hok => ?_
  rw [hok] at hst
  revert hst
  decide

/-! ### What a clock cycle answers -/

/-- The ends of a transaction are those that R280 lists for a tick. -/
theorem EndsAs.mem_tickStatuses {d : DrvState} (h : EndsAs d st) : st ∈ tickStatuses := by
  obtain ⟨-, rfl⟩ | ⟨-, rfl | rfl⟩ := h <;> decide

theorem tick_answers_as_listed (hr : (tick s).rsp = some r) :
    s.drv.busy = true ∧ (tick s).drv.busy = false ∧ ∃ st ∈ tickStatuses, responseStatus r = 0#1 ++ st.code := by
  have hb : s.drv.busy = true := by
    by_contra hidle
    exact nomatch (tick_of_idle (Bool.eq_false_of_not_eq_true hidle)).2.2.symm.trans hr
  have hend : (tick s).drv.busy = false := by
    by_contra hbusy
    exact nomatch (tick_of_goesOn (Bool.eq_true_of_not_eq_false hbusy)).2.1.symm.trans hr
  obtain ⟨d, st, he, htick⟩ := tick_ends hb hend
  rw [htick] at hr
  obtain rfl : statusOnly st = r := Option.some.inj hr
  exact ⟨hb, hend, st, he.mem_tickStatuses, responseStatus_statusOnly st⟩

/-- Settles O57: `exec` is answered in every case, and each case's answer is in its row. -/
theorem statusesOnlyAsListed : Obligations.StatusesOnlyAsListed := by
  refine ⟨fun i s => ?_, fun s r => tick_answers_as_listed⟩
  obtain ⟨t, ht⟩ := exec_answers i s
  exact ⟨t, ht, (exec_answers_as_listed ht).status⟩

/-! ### `CrcMismatch` is in no row (R266) -/

theorem crcMismatch_not_mem_opStatuses (i : Instr) : .crcMismatch ∉ opStatuses i := by
  cases i <;> simp [opStatuses]

/-- Settles O56: a reset cycle presents no response, and `CrcMismatch` is no status of a tick or of an operation. -/
theorem crcMismatchIsNeverReported : Obligations.CrcMismatchIsNeverReported := by
  intro s t r h hr hsix
  obtain ⟨-, ⟨-, rfl⟩ | ⟨-, rfl⟩ | ⟨w, i, -, -, hexec⟩ | ⟨w, -, -, rfl⟩⟩ := step_cases h
  · exact nomatch hr
  · obtain ⟨-, -, st, hst, hcode⟩ := tick_answers_as_listed hr
    obtain rfl := Status.code_eq_six_iff.1 (hcode.symm.trans hsix)
    exact absurd hst (by decide)
  · obtain ⟨st, hst, r', hr', hcode⟩ | ⟨-, hnone, -⟩ := (exec_answers_as_listed hexec).status
    · obtain rfl : r' = r := Option.some.inj (hr'.symm.trans hr)
      obtain rfl := Status.code_eq_six_iff.1 (hcode.symm.trans hsix)
      exact crcMismatch_not_mem_opStatuses i hst
    · exact nomatch hnone.symm.trans hr
  · obtain rfl : statusOnly .refused = r := Option.some.inj hr
    exact absurd hsix (by decide)

end Sys2Proof.Machine
end

section
/-! SUPPORT. A reset cycle (spec/70_reset_and_hazards.md R300, R302; the reset values are those of R45): O51. -/

namespace Sys2Proof.Machine

/-! ### The state after a reset cycle

`resetTick` launches the same configuration over the same pad words; only the time and the schedules differ from the
launch state. -/

@[simp] theorem resetTick_padreg (s : State) : (resetTick s).padreg = s.padreg := rfl
@[simp] theorem resetTick_pin (s : State) (p : Nat) :
    (resetTick s).pin p = (State.launch s.cfg s.padreg).pin p := rfl
@[simp] theorem resetTick_eng (s : State) : (resetTick s).eng = (State.launch s.cfg s.padreg).eng := rfl
@[simp] theorem resetTick_txbuf (s : State) : (resetTick s).txbuf = (State.launch s.cfg s.padreg).txbuf := rfl
@[simp] theorem resetTick_drv (s : State) : (resetTick s).drv = (State.launch s.cfg s.padreg).drv := rfl
@[simp] theorem resetTick_rsp (s : State) : (resetTick s).rsp = none := rfl
@[simp] theorem resetTick_host (s : State) : (resetTick s).host = s.hostAfterCycle := rfl

/-- A cycle that accepts no request leaves the presented one at the head of the schedule (log 6, log 11). -/
theorem State.hostAfterCycle_of_request {s : State} {w : Word} {rest : List HostAct}
    (h : s.host = .request w :: rest) : s.hostAfterCycle = .request w :: rest := by
  rw [State.hostAfterCycle, h]

/-- Settles O51: with `rst` high the step is `resetTick`, whose registers are those of the launch state (O50), and
the cycle that passes takes no request. -/
theorem resetCycleTakesResetValues : Obligations.ResetCycleTakesResetValues := by
  intro s hl hrst
  obtain ⟨-, hpin, heng, htxbuf, hstate, herr, hbusy, -⟩ := resetValues s.cfg s.padreg
  have hstep : step s = .next (resetTick s) := step_of_resetCycle hl (State.move_reset_iff.2 hrst)
  refine ⟨resetTick s, hstep, resetTick_cfg s, resetTick_padreg s, resetTick_rsp s, ?_⟩
  simp only [resetTick_pin, resetTick_eng, resetTick_txbuf, resetTick_drv, resetTick_host]
  exact ⟨hpin, heng, htxbuf, hstate, herr, hbusy, fun _ _ => State.hostAfterCycle_of_request⟩

end Sys2Proof.Machine
end
